-- ==== Sys2Proof/Word.lean ====
section
/-! DEFINITION. The words of the block: bytes of the buffer and opcodes, the 32-bit command-port registers. -/

namespace Sys2Proof

/-- A byte: an entry of BUF, of PIXRAM, a channel of a Color, an opcode (10_state.md R21, R33, R38). -/
abbrev Byte := BitVec 8

/-- A command-port register: ARG, RES, ERR_REQ, ERR_ACT (10_state.md R38, R39). -/
abbrev Word := BitVec 32

/-- `ceil8(a) = (a + 7) div 8`: the number of whole bytes that hold `a` bits (00_scope.md R11). -/
def ceil8 (a : Nat) : Nat := (a + 7) / 8

end Sys2Proof
end

