-- ==== Sys2Proof/Config.lean ====
section
/-! DEFINITION. What the spec leaves open: the free values, and the value of the open parameter BUF_MAX at reset. -/

namespace Sys2Proof.Config

/-- The free values: a register the spec calls unspecified after a command that raised (60_exceptions.md R276)
takes the next of them. Nothing is known of any of its values (log entries 4 and 6). -/
opaque freeWord : Nat → Word

/-- DESIGN CHOICE (log entry 5): the value of the OPEN parameter BUF_MAX in `State.reset`. It is the least that holds the
longest stream the format can express (00_scope.md R7); every other state may have any other value. -/
def bufMaxAtReset : Nat := 16770060

end Sys2Proof.Config
end

