-- ==== Sys2Proof/Syntax.lean ====
section
/-! DEFINITION. The instructions: one constructor for each of the 32 rows of the opcode table. The first nineteen are the
commands of the command port, whose operands are in ARG and not in the word (30_encoding.md R110, R113). The other thirteen are
the patterns of the mode byte's five fields, the part of the stream that selects what DECODE does (30_encoding.md R93 to R95). -/

namespace Sys2Proof

/-- The instructions of the block. A command's docstring names its opcode and its rule; a mode-byte row's names its pattern,
most significant bit first. -/
inductive Instr where
  /-- `0x01`, 40_bitcursor.md R134. -/
  | newcursor
  /-- `0x02`, 40_bitcursor.md R131. -/
  | readbits
  /-- `0x03`, 40_bitcursor.md R132. -/
  | readbyte
  /-- `0x04`, 40_bitcursor.md R133. -/
  | writebits
  /-- `0x10`, 41_modeflags.md R150. -/
  | mfDecode
  /-- `0x11`, 41_modeflags.md R151. -/
  | mfEncode
  /-- `0x12`, 41_modeflags.md R152. -/
  | colorcountfor
  /-- `0x13`, 41_modeflags.md R153. -/
  | channelcountfor
  /-- `0x20`, 42_palette.md R174. -/
  | quant1
  /-- `0x21`, 42_palette.md R175. -/
  | quant2
  /-- `0x22`, 42_palette.md R176. -/
  | quant8
  /-- `0x23`, 42_palette.md R177. -/
  | color
  /-- `0x24`, 42_palette.md R181. -/
  | defcolor
  /-- `0x25`, 42_palette.md R182. -/
  | loaddefpal
  /-- `0x30`, 43_imagecodec_decode.md R200. -/
  | decode
  /-- `0x31`, 43_imagecodec_decode.md R208. -/
  | colorat
  /-- `0x32`, 44_imagecodec_encode.md R230. -/
  | bytecount
  /-- `0x33`, 44_imagecodec_encode.md R233. -/
  | encode
  /-- `0x34`, 45_host_system.md R250. -/
  | build
  /-- Mode byte `00prrlla`, R93. -/
  | modeDepthOneBit
  /-- Mode byte `01prrlla`, R93. -/
  | modeDepthTwoBit
  /-- Mode byte `10prrlla`, R93. -/
  | modeDepthEightBit
  /-- Mode byte `11prrlla`, no enumerator, R95. -/
  | modeDepthReserved
  /-- Mode byte `dd0rrlla`, R93. -/
  | modePaletteNo
  /-- Mode byte `dd1rrlla`, R93. -/
  | modePaletteYes
  /-- Mode byte `ddprr00a`, R93. -/
  | modeLayoutGrayscale
  /-- Mode byte `ddprr01a`, R93. -/
  | modeLayoutRgb
  /-- Mode byte `ddprr10a`, R93. -/
  | modeLayoutRgba
  /-- Mode byte `ddprr11a`, no enumerator, R95. -/
  | modeLayoutReserved
  /-- Mode byte `ddprrll0`, R93. -/
  | modeAccuracyTwoBit
  /-- Mode byte `ddprrll1`, R93. -/
  | modeAccuracyEightBit
  /-- Mode byte `ddprrlla`: the two reserved bits `rr`, R94. -/
  | modeReserved43 (rr : BitVec 2)
deriving DecidableEq, Repr

/-- The five fields of the mode byte (10_state.md R28). -/
inductive ModeField where
  | pixelDepth | paletteEmbedded | reserved43 | channelLayout | channelAccuracy
deriving DecidableEq, Repr

/-- The block meets two encodings (30_encoding.md R90): the opcode written to CMD, and the stream, of which the mode byte's
fields are the part that has rows in the opcode table. -/
inductive Encoding where
  | command
  | modeByte (f : ModeField)
deriving DecidableEq, Repr

/-- The encoding an instruction belongs to. -/
def Instr.encoding : Instr → Encoding
  | .newcursor | .readbits | .readbyte | .writebits
  | .mfDecode | .mfEncode | .colorcountfor | .channelcountfor
  | .quant1 | .quant2 | .quant8 | .color | .defcolor | .loaddefpal
  | .decode | .colorat | .bytecount | .encode | .build => .command
  | .modeDepthOneBit | .modeDepthTwoBit | .modeDepthEightBit | .modeDepthReserved => .modeByte .pixelDepth
  | .modePaletteNo | .modePaletteYes => .modeByte .paletteEmbedded
  | .modeLayoutGrayscale | .modeLayoutRgb | .modeLayoutRgba | .modeLayoutReserved => .modeByte .channelLayout
  | .modeAccuracyTwoBit | .modeAccuracyEightBit => .modeByte .channelAccuracy
  | .modeReserved43 _ => .modeByte .reserved43

/-- The instruction is a command of the command port. -/
def Instr.isCommand (i : Instr) : Bool := i.encoding == .command

end Sys2Proof
end

