-- ==== Sys2Proof/Machine/State.lean ====
section
/-! DEFINITION. The state of the block as plain data, its reasons to stop, and the state after reset. Every piece of state of
spec/10_state.md has a field; the fields that are the model's own say so. -/

namespace Sys2Proof.Machine

/-- Pixel depth: the value of DEPTH (10_state.md R24). The 2-bit register never holds `0b11`, so it is held as the name of its
value (log entry 10). -/
inductive PixelDepth where
  | oneBit | twoBit | eightBit
deriving DecidableEq, Repr

/-- Channel layout: the value of LAYOUT (10_state.md R26); `0b11` is never held (log entry 10). -/
inductive ChannelLayout where
  | grayscale | rgb | rgba
deriving DecidableEq, Repr

/-- Channel accuracy: the value of ACC (10_state.md R27). -/
inductive ChannelAccuracy where
  | twoBit | eightBit
deriving DecidableEq, Repr

/-- A Color: four channels of 8 bits (42_palette.md R171). -/
structure Color where
  r : Byte
  g : Byte
  b : Byte
  a : Byte
deriving DecidableEq, Repr

/-- The phases of the sequencer (10_state.md R41), in their order. -/
inductive Phase where
  | idle
  | dSig | dMode | dDim | dPal | dPix | dDone
  | eCheck | eSig | eMode | eDim | ePal | ePix | eDone
deriving DecidableEq, Repr

/-- The variables of DECODE's steps, "not architectural state" (43_imagecodec_decode.md R200): `d, p, l, acc, w, h, pal, pix`.
They hold the empty value outside a command (log entry 11). -/
structure StepVars where
  d   : PixelDepth
  p   : Bool
  l   : ChannelLayout
  acc : ChannelAccuracy
  w   : BitVec 12
  h   : BitVec 12
  pal : List Color
  pix : List Byte
deriving DecidableEq, Repr

/-- The step variables when no DECODE is running. -/
def StepVars.empty : StepVars :=
  { d := .oneBit, p := false, l := .grayscale, acc := .twoBit, w := 0, h := 0, pal := [], pix := [] }

/-- What the host can read (45_host_system.md R251). SEQ is not among it (60_exceptions.md R286). -/
inductive PortReg where
  | buf (j : Nat) | bufLen | pos
  | depth | palEmb | layout | acc | width | height
  | palram (i : Byte) (channel : Fin 4) | pixram (k : Nat) | imgValid
  | cmd | arg (i : Fin 6) | res (i : Fin 4)
  | err | errSub | errReq | errAct | outLen
deriving DecidableEq, Repr

/-- What the host can do between commands (45_host_system.md R251). There is no action for a register that is read-only
to it. -/
inductive PortAction where
  /-- `BUF[j] <- b`. -/
  | writeBuf (j : Nat) (b : Byte)
  /-- `BUF_LEN <- n`. -/
  | writeBufLen (n : Nat)
  /-- `PALRAM[i] <- c`; clears IMG_VALID (R252). -/
  | writePal (i : Byte) (c : Color)
  /-- `PIXRAM[k] <- v`; clears IMG_VALID (R252). -/
  | writePix (k : Nat) (v : Byte)
  /-- `ARG[i] <- v`. -/
  | writeArg (i : Fin 6) (v : Word)
  /-- `CMD <- op`, which starts the command. -/
  | writeCmd (op : Byte)
  /-- A read, which changes nothing. -/
  | read (r : PortReg)
deriving DecidableEq, Repr

/-- The state of one block. -/
structure State where
  /-- BUF, the stream buffer (R21): the bytes that differ from what an unlisted one reads as, addresses rising. -/
  buf      : List Host.Cell
  /-- BUF_LEN in bytes (R22; log entry 18). -/
  bufLen   : Nat
  /-- POS, the cursor, in bits (R23; log entry 18). -/
  pos      : Nat
  /-- DEPTH (R24). -/
  depth    : PixelDepth
  /-- PAL_EMB (R25): true for Yes. -/
  palEmb   : Bool
  /-- LAYOUT (R26). -/
  layout   : ChannelLayout
  /-- ACC (R27). -/
  acc      : ChannelAccuracy
  /-- WIDTH (R30). -/
  width    : BitVec 12
  /-- HEIGHT (R31). -/
  height   : BitVec 12
  /-- PALRAM, 256 Colors (R32), listed like BUF. -/
  palram   : List (Nat × Color)
  /-- PIXRAM, 16,769,025 indices (R33), listed like BUF. -/
  pixram   : List Host.Cell
  /-- IMG_VALID (R34). -/
  imgValid : Bool
  /-- CMD (R38). -/
  cmd      : Byte
  /-- ARG[0] to ARG[5] (R38). -/
  arg      : Vector Word 6
  /-- RES[0] to RES[3] (R38). -/
  res      : Vector Word 4
  /-- ERR (R39). -/
  err      : BitVec 4
  /-- ERR_SUB (R39). -/
  errSub   : BitVec 4
  /-- ERR_REQ (R39). -/
  errReq   : Word
  /-- ERR_ACT (R39). -/
  errAct   : Word
  /-- OUT_LEN (R40; log entry 18). -/
  outLen   : Nat
  /-- SEQ, hidden (R41). -/
  seq      : Phase
  /-- DECODE's step variables, hidden (R200). -/
  tmp      : StepVars
  /-- The parameter BUF_MAX (00_scope.md R7); no step writes it (log entry 5). -/
  bufMax   : Nat
  /-- The model's own: what the host does from here on, one action a step (log entry 1). -/
  script   : List PortAction
  /-- The model's own: which free values come next (log entry 4). -/
  freeCtr  : Nat
deriving DecidableEq, Repr

/-- Why the machine stops. An exception of the block is not among these: it is a next state (60_exceptions.md R276). -/
inductive Fault where
  /-- The host reads a byte of BUF at or above BUF_LEN, which does not exist (R21), or writes one at or above BUF_MAX, which
  never will (R22). Raised by a host access; safe. -/
  | noSuchBufByte (j : Nat)
  /-- The host names an entry of PIXRAM at or above PIX_MAX, which does not exist (R33). Raised by a host access; safe. -/
  | noSuchPixel (k : Nat)
deriving DecidableEq, Repr

/-- Why the model gives no next state. -/
inductive Refusal where
  /-- No meaning yet: the word of `exec`'s arms for such instructions; safe. No arm uses it. -/
  | notModelled (mnemonic : String)
  /-- The host sets BUF_LEN above BUF_MAX, which R251 tells it not to do. Raised by a host access; safe. -/
  | bufLenAboveMax (n : Nat)
deriving DecidableEq, Repr

/-- The state right after reset (10_state.md R43, 70_reset_and_hazards.md R300): POS, BUF_LEN, IMG_VALID, ERR and ERR_SUB are 0
and SEQ is IDLE. Every other value is DESIGN CHOICE (log entries 1 to 5 and 11): the spec leaves it unspecified. -/
def State.reset : State :=
  { buf := [], bufLen := 0, pos := 0,
    depth := .oneBit, palEmb := false, layout := .grayscale, acc := .twoBit, width := 0, height := 0,
    palram := [], pixram := [], imgValid := false,
    cmd := 0, arg := Vector.replicate 6 0, res := Vector.replicate 4 0,
    err := 0, errSub := 0, errReq := 0, errAct := 0, outLen := 0,
    seq := .idle, tmp := StepVars.empty,
    bufMax := Config.bufMaxAtReset, script := [], freeCtr := 0 }

end Sys2Proof.Machine
end

