-- ==== Sys2Proof/Machine/Flags.lean ====
section
/-! DEFINITION. The status flags: the causes of exceptions and the codes ERR and ERR_SUB hold for them (60_exceptions.md R270,
R273). There are no arithmetic condition codes (10_state.md R39). -/

namespace Sys2Proof.Machine

/-- The five DecodeErrors (60_exceptions.md R270, R271). -/
inductive DecodeCause where
  | invalidSignature | missingModeByte | insufficientBits | pixelBits | invalidMode
deriving DecidableEq, Repr

/-- The ten AssertFaults (60_exceptions.md R273). -/
inductive AssertCause where
  | badDepth | badLayout | badBitcount | valueTooWide | coordRange
  | noImage | pixelRange | dimRange | badCommand | badOperand
deriving DecidableEq, Repr

/-- An exception: what the pseudocode's `raise` names (00_scope.md R11). -/
inductive Exc where
  | decode (c : DecodeCause)
  /-- `EncodeError(BUFFER_TOO_SMALL, required, actual)`, sizes in bytes (60_exceptions.md R272). -/
  | bufferTooSmall (required actual : Nat)
  | assert (c : AssertCause)
deriving DecidableEq, Repr

/-- The cause code of ERR (60_exceptions.md R270). -/
def Exc.errCode : Exc → BitVec 4
  | .decode .invalidSignature => 1
  | .decode .missingModeByte => 2
  | .decode .insufficientBits => 3
  | .decode .pixelBits => 4
  | .decode .invalidMode => 5
  | .bufferTooSmall _ _ => 8
  | .assert _ => 15

/-- The subcode of an AssertFault (60_exceptions.md R273). -/
def AssertCause.subCode : AssertCause → BitVec 4
  | .badDepth => 1
  | .badLayout => 2
  | .badBitcount => 3
  | .valueTooWide => 4
  | .coordRange => 5
  | .noImage => 6
  | .pixelRange => 7
  | .dimRange => 8
  | .badCommand => 9
  | .badOperand => 10

/-- ERR_SUB: the subcode when ERR is 15, else 0 (60_exceptions.md R276). -/
def Exc.errSubCode : Exc → BitVec 4
  | .assert c => c.subCode
  | _ => 0

end Sys2Proof.Machine
end

