-- ==== Sys2Proof/Machine/Memory.lean ====
section
/-! DEFINITION. The memories: entries listed by address in one canonical form, and BUF read and written by bits, most
significant first (00_scope.md R9, R11; 20_memory.md R61, R62). -/

namespace Sys2Proof.Machine

/-- Entry `a` of a memory; an entry not listed reads `d`. -/
def Memory.read {α : Type} (d : α) : List (Nat × α) → Nat → α
  | [], _ => d
  | (b, w) :: rest, a => if a = b then w else Memory.read d rest a

/-- Writes entry `a`. Writing what an unlisted entry reads as takes the entry out of the list. -/
def Memory.write {α : Type} [DecidableEq α] (d : α) (a : Nat) (v : α) : List (Nat × α) → List (Nat × α)
  | [] => if v = d then [] else [(a, v)]
  | (b, w) :: rest =>
    if a < b then (if v = d then (b, w) :: rest else (a, v) :: (b, w) :: rest)
    else if a = b then (if v = d then rest else (a, v) :: rest)
    else (b, w) :: Memory.write d a v rest

/-- The canonical form: addresses strictly rising, no entry equal to what an unlisted one reads as. -/
abbrev Memory.wf {α : Type} (d : α) (m : List (Nat × α)) : Prop :=
  m.Pairwise (fun x y => x.1 < y.1) ∧ ∀ c ∈ m, c.2 ≠ d

/-- Every listed address is below `n`. -/
abbrev Memory.below {α : Type} (n : Nat) (m : List (Nat × α)) : Prop := ∀ c ∈ m, c.1 < n

/-- Writes a list of values to consecutive entries from `a` on. -/
def Memory.writeAll {α : Type} [DecidableEq α] (d : α) (a : Nat) : List α → List (Nat × α) → List (Nat × α)
  | [], m => m
  | v :: vs, m => Memory.writeAll d (a + 1) vs (Memory.write d a v m)

/-- DESIGN CHOICE (log entry 3): what a byte of BUF or an entry of PIXRAM that nothing has written reads as. -/
def unlistedByte : Byte := 0

/-- DESIGN CHOICE (log entry 3): what an entry of PALRAM that nothing has written reads as. -/
def unlistedColor : Color := { r := 0, g := 0, b := 0, a := 0 }

/-- `PIX_MAX = 4095 * 4095`, the number of entries of PIXRAM (00_scope.md R7). -/
def pixMax : Nat := 16769025

/-- `BUF[j]` (10_state.md R21). -/
def bufByte (m : List Host.Cell) (j : Nat) : Byte := Memory.read unlistedByte m j

/-- `PALRAM[i]` (10_state.md R32). -/
def palEntry (m : List (Nat × Color)) (i : Nat) : Color := Memory.read unlistedColor m i

/-- `PIXRAM[k]` (10_state.md R33). -/
def pixEntry (m : List Host.Cell) (k : Nat) : Byte := Memory.read unlistedByte m k

/-- `BufBit(p) = (BUF[p div 8] >> (7 - (p mod 8))) & 1` (00_scope.md R9, R11). -/
def bufBit (m : List Host.Cell) (p : Nat) : Bool := (bufByte m (p / 8)).getLsbD (7 - p % 8)

/-- `MemRead(p, n) = sum over i in 0..n-1 of BufBit(p+i) << (n-1-i)` (00_scope.md R11). -/
def memRead (m : List Host.Cell) (p : Nat) : Nat → Nat
  | 0 => 0
  | n + 1 => (bufBit m p).toNat <<< n + memRead m (p + 1) n

/-- A byte with its bit `k` made `b`. -/
def withBit (x : Byte) (k : Nat) (b : Bool) : Byte :=
  if b then x ||| (1#8 <<< k) else x &&& ~~~(1#8 <<< k)

/-- Makes the bit of BUF at position `p` equal to `b`; every other bit of BUF keeps its value. -/
def setBufBit (m : List Host.Cell) (p : Nat) (b : Bool) : List Host.Cell :=
  Memory.write unlistedByte (p / 8) (withBit (bufByte m (p / 8)) (7 - p % 8) b) m

/-- `MemWrite(p, n, v)`: the bit at `p + i` becomes `(v >> (n-1-i)) & 1`, for `i` in 0..n-1 (00_scope.md R11). -/
def memWrite (m : List Host.Cell) (p v : Nat) : Nat → List Host.Cell
  | 0 => m
  | n + 1 => memWrite (setBufBit m p (v.testBit n)) (p + 1) v n

end Sys2Proof.Machine
end

