-- ==== Sys2Proof/Machine/Ops.lean ====
section
/-! DEFINITION. The shared operations: taking an exception and going on after one, the sequence of sub-steps of a command, the
registers of the command port, and the BitCursor's reads and writes at POS (40_bitcursor.md). -/

namespace Sys2Proof.Machine

/-- The size registers hold a size in bytes; one of 2^32 or more has no value the spec states, and the free value `f` stands
for it (log entry 6). -/
def sizeWord (n : Nat) (f : Word) : Word := if n < 2 ^ 32 then BitVec.ofNat 32 n else f

/-- Taking an exception, the block's trap entry (60_exceptions.md R276): ERR and ERR_SUB take the cause; ERR_REQ and ERR_ACT
the sizes, only for an EncodeError; RES[0..3] become unspecified (free values, log entry 4); SEQ goes to IDLE. Nothing else is
saved and there is no handler: the command ends and every change it made before stays. -/
def State.raise (x : Exc) (s : State) : State :=
  { s with
    err := x.errCode
    errSub := x.errSubCode
    errReq := match x with
      | .bufferTooSmall q _ => sizeWord q (Config.freeWord (s.freeCtr + 4))
      | _ => s.errReq
    errAct := match x with
      | .bufferTooSmall _ c => sizeWord c (Config.freeWord (s.freeCtr + 5))
      | _ => s.errAct
    res := #v[Config.freeWord s.freeCtr, Config.freeWord (s.freeCtr + 1),
              Config.freeWord (s.freeCtr + 2), Config.freeWord (s.freeCtr + 3)]
    freeCtr := s.freeCtr + 6
    seq := .idle
    tmp := StepVars.empty }

/-- Going on after an exception: there is no return command; every command clears ERR and ERR_SUB at its start and leaves
ERR_REQ and ERR_ACT (60_exceptions.md R272, R281; 10_state.md R39). -/
def State.begin (s : State) : State := { s with err := 0, errSub := 0 }

/-- How a sub-step of a command ends: with a value and the state after it, or with a `raise` in the state it was made in. -/
inductive Run (α : Type) where
  | done (a : α) (s : State)
  | raised (x : Exc) (s : State)

/-- One sub-step after another; a `raise` ends the command at once (00_scope.md R11). -/
def Run.andThen {α β : Type} (r : Run α) (f : α → State → Run β) : Run β :=
  match r with
  | .done a s => f a s
  | .raised x s => .raised x s

/-- A command as one step of the machine: its last state, or the exception taken. -/
def Run.finish (r : Run Unit) : Host.Outcome State Fault Refusal :=
  match r with
  | .done _ s => .next s
  | .raised x s => .next (s.raise x)

/-! The command port (30_encoding.md R110, R112). -/

/-- `RES[0] <- v`. -/
def State.setRes0 (v : Word) (s : State) : State := { s with res := s.res.set 0 v }

/-- The four results of a command that writes RES[0] to RES[3]. -/
def State.setRes4 (v0 v1 v2 v3 : Word) (s : State) : State := { s with res := #v[v0, v1, v2, v3] }

/-- A Color result: r, g, b, a to RES[0..3], each zero-extended (30_encoding.md R112). -/
def State.setResColor (c : Color) (s : State) : State :=
  s.setRes4 (c.r.setWidth 32) (c.g.setWidth 32) (c.b.setWidth 32) (c.a.setWidth 32)

/-- SEQ moves to a phase (10_state.md R41). -/
def State.goto (p : Phase) (s : State) : State := { s with seq := p }

/-! The BitCursor (40_bitcursor.md R130): the only address is POS, and a successful access of `n` bits adds `n` to it. -/

/-- The bits that remain in the buffer; 0 when POS is past the end (20_memory.md R77, 70_reset_and_hazards.md R306). -/
def State.bitsLeft (s : State) : Nat := 8 * s.bufLen - s.pos

/-- POS advanced by `n`. -/
def State.advance (n : Nat) (s : State) : State := { s with pos := s.pos + n }

/-- `readBits(n)` (40_bitcursor.md R131), for an `n` already checked: the field, or `DecodeError(INSUFFICIENT_BITS)` with
nothing changed. -/
def readBits (n : Nat) (s : State) : Run Nat :=
  if s.bitsLeft < n then .raised (.decode .insufficientBits) s
  else .done (memRead s.buf s.pos n) (s.advance n)

/-- `readByte()`, "equivalent to `readBits(8)`" (40_bitcursor.md R132). -/
def readByte (s : State) : Run Byte :=
  (readBits 8 s).andThen fun v s => .done (BitVec.ofNat 8 v) s

/-- `n` bytes, one after the other. -/
def readBytes : Nat → State → Run (List Byte)
  | 0, s => .done [] s
  | n + 1, s =>
    (readByte s).andThen fun b s => (readBytes n s).andThen fun bs s => .done (b :: bs) s

/-- `writeBits(value, n)` (40_bitcursor.md R133), with its three checks in their order. -/
def writeBits (value n : Nat) (s : State) : Run Unit :=
  if n < 1 ∨ 32 < n then .raised (.assert .badBitcount) s
  else if 2 ^ n ≤ value then .raised (.assert .valueTooWide) s
  else if s.bitsLeft < n then .raised (.bufferTooSmall (ceil8 (s.pos + n)) s.bufLen) s
  else .done () ({ s with buf := memWrite s.buf s.pos value n }.advance n)

/-- Bytes, one after the other. -/
def writeBytes : List Byte → State → Run Unit
  | [], s => .done () s
  | b :: bs, s => (writeBits b.toNat 8 s).andThen fun _ s => writeBytes bs s

/-- DECODE's skip of the 0 to 7 padding bits: POS goes up to a multiple of 8 (20_memory.md R68). -/
def State.alignPos (s : State) : State := { s with pos := 8 * ceil8 s.pos }

/-- ENCODE's padding: zero bits up to a multiple of 8, none if POS is one (44_imagecodec_encode.md R233). -/
def writePad (s : State) : Run Unit :=
  let pad := 8 * ceil8 s.pos - s.pos
  if 0 < pad then writeBits 0 pad s else .done () s

end Sys2Proof.Machine
end

