-- ==== Sys2Proof/Machine/Operands.lean ====
section
/-! DEFINITION. The operands of the commands: the registers ARG, the ranges and the order they are checked in (30_encoding.md
R111), and what an operand or a field of the stream names (41_modeflags.md R152 to R155). -/

namespace Sys2Proof.Machine

/-- The kinds of operand that have a range (30_encoding.md R111, R113). Indexes and coordinates have none. -/
inductive OperandKind where
  | depth | layout | flag | byte | bitCount | dimension
deriving DecidableEq, Repr

/-- The operand is in its range. -/
def OperandKind.admits (k : OperandKind) (v : Word) : Bool :=
  match k with
  | .depth => v.toNat ≤ 2
  | .layout => v.toNat ≤ 2
  | .flag => v.toNat ≤ 1
  | .byte => v.toNat ≤ 255
  | .bitCount => 1 ≤ v.toNat && v.toNat ≤ 32
  | .dimension => v.toNat ≤ 4095

/-- The AssertFault of an operand outside its range. -/
def OperandKind.cause : OperandKind → AssertCause
  | .depth => .badDepth
  | .layout => .badLayout
  | .flag => .badOperand
  | .byte => .badOperand
  | .bitCount => .badBitcount
  | .dimension => .dimRange

/-- The fault of the first operand out of range, in the order given. -/
def firstFault : List (OperandKind × Word) → Option AssertCause
  | [] => none
  | (k, v) :: rest => if k.admits v then firstFault rest else some k.cause

/-- The operand checks of a command, before anything else it does (30_encoding.md R111). -/
def checkOperands (ops : List (OperandKind × Word)) (s : State) : Run Unit :=
  match firstFault ops with
  | some c => .raised (.assert c) s
  | none => .done () s

/-- The check that there is an image (60_exceptions.md R273, R275). -/
def needImage (s : State) : Run Unit :=
  if s.imgValid then .done () s else .raised (.assert .noImage) s

/-! What a value names. The last case of each is for values the check before it has turned away. -/

/-- The pixel depth of a checked operand. -/
def depthOf (v : Word) : PixelDepth :=
  match v.toNat with
  | 0 => .oneBit
  | 1 => .twoBit
  | _ => .eightBit

/-- The channel layout of a checked operand. -/
def layoutOf (v : Word) : ChannelLayout :=
  match v.toNat with
  | 0 => .grayscale
  | 1 => .rgb
  | _ => .rgba

/-- The channel accuracy of a checked flag. -/
def accuracyOf (v : Word) : ChannelAccuracy :=
  match v.toNat with
  | 0 => .twoBit
  | _ => .eightBit

/-- A checked flag. -/
def flagOf (v : Word) : Bool := v.toNat != 0

/-- The numeric value of a pixel depth, its field bits (30_encoding.md R93). -/
def PixelDepth.code : PixelDepth → Nat
  | .oneBit => 0
  | .twoBit => 1
  | .eightBit => 2

/-- The numeric value of a channel layout (30_encoding.md R93). -/
def ChannelLayout.code : ChannelLayout → Nat
  | .grayscale => 0
  | .rgb => 1
  | .rgba => 2

/-- The numeric value of a channel accuracy (30_encoding.md R93). -/
def ChannelAccuracy.code : ChannelAccuracy → Nat
  | .twoBit => 0
  | .eightBit => 1

/-- `colorCountFor` (41_modeflags.md R152). -/
def colorCountFor : PixelDepth → Nat
  | .oneBit => 2
  | .twoBit => 4
  | .eightBit => 256

/-- `channelCountFor` (41_modeflags.md R153). -/
def channelCountFor : ChannelLayout → Nat
  | .grayscale => 1
  | .rgb => 3
  | .rgba => 4

/-- `bitsPerPixelFor` (41_modeflags.md R154). -/
def bitsPerPixelFor : PixelDepth → Nat
  | .oneBit => 1
  | .twoBit => 2
  | .eightBit => 8

/-- `bitsPerChannelFor` (41_modeflags.md R155). -/
def bitsPerChannelFor : ChannelAccuracy → Nat
  | .twoBit => 2
  | .eightBit => 8

/-- The mode byte of four fields, reserved bits zero (10_state.md R28, 41_modeflags.md R151). -/
def modeByteOf (d : PixelDepth) (p : Bool) (l : ChannelLayout) (a : ChannelAccuracy) : Byte :=
  BitVec.ofNat 8 (d.code <<< 6 ||| p.toNat <<< 5 ||| l.code <<< 1 ||| a.code)

/-- The pixels of the current image: `WIDTH * HEIGHT` (10_state.md R33). -/
def State.pixelCount (s : State) : Nat := s.width.toNat * s.height.toNat

end Sys2Proof.Machine
end

