-- ==== Sys2Proof/Machine/BitCursor.lean ====
section
/-! DEFINITION. The BitCursor unit's commands: NEWCURSOR, READBITS, READBYTE, WRITEBITS (40_bitcursor.md). -/

namespace Sys2Proof.Machine

/-- NEWCURSOR (40_bitcursor.md R134). -/
def execNewcursor (s : State) : Host.Outcome State Fault Refusal :=
  Run.finish (.done () { s.begin with pos := 0 })

/-- READBITS n, `n = ARG[0]` (40_bitcursor.md R131). -/
def execReadbits (s : State) : Host.Outcome State Fault Refusal :=
  Run.finish <|
    (checkOperands [(.bitCount, s.arg[0])] s.begin).andThen fun _ s =>
    (readBits s.arg[0].toNat s).andThen fun v s =>
    .done () (s.setRes0 (BitVec.ofNat 32 v))

/-- READBYTE (40_bitcursor.md R132): R131 with `n = 8`. -/
def execReadbyte (s : State) : Host.Outcome State Fault Refusal :=
  Run.finish <| (readByte s.begin).andThen fun b s => .done () (s.setRes0 (b.setWidth 32))

/-- WRITEBITS value, n, `value = ARG[0]`, `n = ARG[1]` (40_bitcursor.md R133). -/
def execWritebits (s : State) : Host.Outcome State Fault Refusal :=
  Run.finish <| writeBits s.arg[0].toNat s.arg[1].toNat s.begin

end Sys2Proof.Machine
end

