-- ==== Sys2Proof/Machine/Build.lean ====
section
/-! DEFINITION. BUILD, the command that makes an image from explicit fields (45_host_system.md). -/

namespace Sys2Proof.Machine

/-- The `n` entries of PIXRAM from entry `k` on are all below `cc`, tested in order. -/
def pixelsBelow (cc : Nat) (m : List Host.Cell) (k : Nat) : Nat → Bool
  | 0 => true
  | n + 1 => if (pixEntry m k).toNat < cc then pixelsBelow cc m (k + 1) n else false

/-- The operands of BUILD in ARG order (45_host_system.md R250). -/
def buildOperands (s : State) : List (OperandKind × Word) :=
  [(.depth, s.arg[0]), (.flag, s.arg[1]), (.layout, s.arg[2]), (.flag, s.arg[3]),
   (.dimension, s.arg[4]), (.dimension, s.arg[5])]

/-- The pixel check of BUILD: `AssertFault(PIXEL_RANGE)` for a pixel that is no index of the palette (R250). -/
def checkPixels (cc n : Nat) (s : State) : Run Unit :=
  if pixelsBelow cc s.pixram 0 n then .done () s else .raised (.assert .pixelRange) s

/-- BUILD depth, palEmb, layout, acc, width, height (45_host_system.md R250). -/
def execBuild (s : State) : Host.Outcome State Fault Refusal :=
  Run.finish <|
    (checkOperands (buildOperands s) s.begin).andThen fun _ s =>
    (checkPixels (colorCountFor (depthOf s.arg[0])) (s.arg[4].toNat * s.arg[5].toNat)
      { s with imgValid := false }).andThen fun _ s =>
    .done () { s with
      depth := depthOf s.arg[0]
      palEmb := flagOf s.arg[1]
      layout := layoutOf s.arg[2]
      acc := accuracyOf s.arg[3]
      width := s.arg[4].setWidth 12
      height := s.arg[5].setWidth 12
      imgValid := true }

end Sys2Proof.Machine
end

