-- ==== Sys2Proof/WellFormed.lean ====
section
/-! DEFINITION. Which instructions are well formed: every command, and the mode-byte patterns that the block itself may
produce (30_encoding.md R94, R95). -/

namespace Sys2Proof

/-- The pixel depth pattern names an enumerator: not `11` (30_encoding.md R95). -/
def Instr.depthNamed : Instr → Bool
  | .modeDepthReserved => false
  | _ => true

/-- The channel layout pattern names an enumerator: not `11` (30_encoding.md R95). -/
def Instr.layoutNamed : Instr → Bool
  | .modeLayoutReserved => false
  | _ => true

/-- Bits 4:3 of the mode byte are zero, as the block writes them (30_encoding.md R94: "On output they are zero"). -/
def Instr.reservedZero : Instr → Bool
  | .modeReserved43 rr => rr == 0
  | _ => true

/-- An instruction the encodings of the block produce. DECODE accepts one more, the reserved bits with another value, and
ignores them (R94). -/
def Instr.wellFormed (i : Instr) : Bool := i.depthNamed && i.layoutNamed && i.reservedZero

end Sys2Proof
end

