-- ==== Sys2Proof/Decode.lean ====
section
/-! DEFINITION. The decoders, total on every byte, and after them the encoder, from the tables of 30_encoding.md R93 (mode
byte) and R113 (opcodes). A command is one byte; its operands are registers, not words. -/

namespace Sys2Proof

/-- The command an opcode names (30_encoding.md R113); none for the opcodes R114 calls illegal. -/
def decodeOpcode (op : Byte) : Option Instr :=
  match op.toNat with
  | 0x01 => some .newcursor
  | 0x02 => some .readbits
  | 0x03 => some .readbyte
  | 0x04 => some .writebits
  | 0x10 => some .mfDecode
  | 0x11 => some .mfEncode
  | 0x12 => some .colorcountfor
  | 0x13 => some .channelcountfor
  | 0x20 => some .quant1
  | 0x21 => some .quant2
  | 0x22 => some .quant8
  | 0x23 => some .color
  | 0x24 => some .defcolor
  | 0x25 => some .loaddefpal
  | 0x30 => some .decode
  | 0x31 => some .colorat
  | 0x32 => some .bytecount
  | 0x33 => some .encode
  | 0x34 => some .build
  | _ => none

/-! The fields of the mode byte, by their masks and shifts (10_state.md R28, 41_modeflags.md R150). -/

/-- Bits 7:6. -/
def depthBits (m : Byte) : BitVec 2 := ((m &&& 0b11000000#8) >>> 6).setWidth 2

/-- Bit 5. -/
def paletteBit (m : Byte) : BitVec 1 := ((m &&& 0b00100000#8) >>> 5).setWidth 1

/-- Bits 4:3. -/
def reservedBits (m : Byte) : BitVec 2 := ((m &&& 0b00011000#8) >>> 3).setWidth 2

/-- Bits 2:1. -/
def layoutBits (m : Byte) : BitVec 2 := ((m &&& 0b00000110#8) >>> 1).setWidth 2

/-- Bit 0. -/
def accuracyBit (m : Byte) : BitVec 1 := (m &&& 0b00000001#8).setWidth 1

/-- The row of the opcode table that a mode byte matches in one of its fields: exactly one each (30_encoding.md R93 to R95). -/
def decodeModeField (f : ModeField) (m : Byte) : Instr :=
  match f with
  | .pixelDepth =>
    match (depthBits m).toNat with
    | 0 => .modeDepthOneBit
    | 1 => .modeDepthTwoBit
    | 2 => .modeDepthEightBit
    | _ => .modeDepthReserved
  | .paletteEmbedded =>
    match (paletteBit m).toNat with
    | 0 => .modePaletteNo
    | _ => .modePaletteYes
  | .reserved43 => .modeReserved43 (reservedBits m)
  | .channelLayout =>
    match (layoutBits m).toNat with
    | 0 => .modeLayoutGrayscale
    | 1 => .modeLayoutRgb
    | 2 => .modeLayoutRgba
    | _ => .modeLayoutReserved
  | .channelAccuracy =>
    match (accuracyBit m).toNat with
    | 0 => .modeAccuracyTwoBit
    | _ => .modeAccuracyEightBit

/-- The five instructions a mode byte decodes to, most significant field first. -/
def decodeModeByte (m : Byte) : List Instr :=
  [decodeModeField .pixelDepth m, decodeModeField .paletteEmbedded m, decodeModeField .reserved43 m,
   decodeModeField .channelLayout m, decodeModeField .channelAccuracy m]

/-- The decoder of either encoding. -/
def decodeIn (e : Encoding) (b : Byte) : Option Instr :=
  match e with
  | .command => decodeOpcode b
  | .modeByte f => some (decodeModeField f b)

/-- Why bytes are not a command. -/
inductive DecodeReject where
  /-- There is no byte to decode. -/
  | noByte
  /-- The opcode is not in the table of 30_encoding.md R113; the block raises BAD_COMMAND (R114). -/
  | badCommand (op : Byte)
deriving DecidableEq, Repr

/-- What decoding bytes gives: an instruction and the bytes after it, or a rejection by name. -/
inductive Decoded where
  | instr (i : Instr) (rest : List Byte)
  | reject (r : DecodeReject)
deriving DecidableEq, Repr

/-- Decodes the command at the head of a list of bytes. -/
def decodeCommand : List Byte → Decoded
  | [] => .reject .noByte
  | op :: rest =>
    match decodeOpcode op with
    | some i => .instr i rest
    | none => .reject (.badCommand op)

/-- The bytes of a word of the opcode table: the table's bit 0 is the least significant bit of the one byte, and the bits
above `nbits` are zero. -/
def tableBytes (nbits w : Nat) : List Byte := [BitVec.ofNat 8 (w % 2 ^ nbits)]

/-- What the command decoder reads from a word of the opcode table. The table's mode-byte rows are patterns of another byte, one
that is not written to CMD: a word alone does not say which of the two encodings it is in, and this reads it as an opcode
(log entry 8). -/
def decodeTableWord (nbits w : Nat) : Option Instr :=
  match decodeCommand (tableBytes nbits w) with
  | .instr i _ => some i
  | .reject _ => none

/-- The byte of an instruction: a command's opcode (30_encoding.md R113), a mode-byte row's field bits in their place with
every other bit zero (R93). -/
def encodeInstr : Instr → Byte
  | .newcursor => 0x01
  | .readbits => 0x02
  | .readbyte => 0x03
  | .writebits => 0x04
  | .mfDecode => 0x10
  | .mfEncode => 0x11
  | .colorcountfor => 0x12
  | .channelcountfor => 0x13
  | .quant1 => 0x20
  | .quant2 => 0x21
  | .quant8 => 0x22
  | .color => 0x23
  | .defcolor => 0x24
  | .loaddefpal => 0x25
  | .decode => 0x30
  | .colorat => 0x31
  | .bytecount => 0x32
  | .encode => 0x33
  | .build => 0x34
  | .modeDepthOneBit => 0b00000000
  | .modeDepthTwoBit => 0b01000000
  | .modeDepthEightBit => 0b10000000
  | .modeDepthReserved => 0b11000000
  | .modePaletteNo => 0b00000000
  | .modePaletteYes => 0b00100000
  | .modeLayoutGrayscale => 0b00000000
  | .modeLayoutRgb => 0b00000010
  | .modeLayoutRgba => 0b00000100
  | .modeLayoutReserved => 0b00000110
  | .modeAccuracyTwoBit => 0b00000000
  | .modeAccuracyEightBit => 0b00000001
  | .modeReserved43 rr => (rr.setWidth 8) <<< 3

/-- A mode byte from the rows of its fields: "OR's the shifted field values together" (41_modeflags.md R151). -/
def encodeModeByte (rows : List Instr) : Byte := rows.foldr (fun i m => encodeInstr i ||| m) 0

/-- The bits that say which instruction a byte is: its row's mask in the opcode table, and for the reserved bits, where that
mask is 0, the place of the operand. -/
def rowMask (i : Instr) : Byte :=
  match i.encoding with
  | .command => 0xFF
  | .modeByte .pixelDepth => 0xC0
  | .modeByte .paletteEmbedded => 0x20
  | .modeByte .reserved43 => 0x18
  | .modeByte .channelLayout => 0x06
  | .modeByte .channelAccuracy => 0x01

end Sys2Proof
end

