-- ==== Sys2Proof/Machine/ModeFlags.lean ====
section
/-! DEFINITION. The ModeFlags unit: its four commands (41_modeflags.md), and the rows of the mode byte's fields, whose meaning is
their share of DECODE's step 2 (30_encoding.md R93 to R95, 43_imagecodec_decode.md R202; log entry 7). -/

namespace Sys2Proof.Machine

/-- MF_DECODE byte, `byte = ARG[0]`: each field by its mask and shift, not validated (41_modeflags.md R150). -/
def execMfDecode (s : State) : Host.Outcome State Fault Refusal :=
  let m := s.arg[0]
  Run.finish <|
    (checkOperands [(.byte, m)] s.begin).andThen fun _ s =>
    .done () (s.setRes4 ((m &&& 0b11000000#32) >>> 6) ((m &&& 0b00100000#32) >>> 5)
      ((m &&& 0b00000110#32) >>> 1) (m &&& 0b00000001#32))

/-- MF_ENCODE depth, palEmb, layout, acc (41_modeflags.md R151). -/
def execMfEncode (s : State) : Host.Outcome State Fault Refusal :=
  Run.finish <|
    (checkOperands [(.depth, s.arg[0]), (.flag, s.arg[1]), (.layout, s.arg[2]), (.flag, s.arg[3])] s.begin).andThen
    fun _ s =>
    .done () (s.setRes0 (s.arg[0] <<< 6 ||| s.arg[1] <<< 5 ||| s.arg[2] <<< 1 ||| s.arg[3]))

/-- COLORCOUNTFOR depth (41_modeflags.md R152). -/
def execColorcountfor (s : State) : Host.Outcome State Fault Refusal :=
  Run.finish <|
    (checkOperands [(.depth, s.arg[0])] s.begin).andThen fun _ s =>
    .done () (s.setRes0 (BitVec.ofNat 32 (colorCountFor (depthOf s.arg[0]))))

/-- CHANNELCOUNTFOR layout (41_modeflags.md R153). -/
def execChannelcountfor (s : State) : Host.Outcome State Fault Refusal :=
  Run.finish <|
    (checkOperands [(.layout, s.arg[0])] s.begin).andThen fun _ s =>
    .done () (s.setRes0 (BitVec.ofNat 32 (channelCountFor (layoutOf s.arg[0]))))

/-! The mode byte's fields as DECODE's step 2 takes them: into its variables `d`, `p`, `l`, `acc`, or an exception for a
pattern that names no enumerator. -/

/-- The pixelDepth field, bits 7:6 (R93, R95). -/
def takeDepth (f : BitVec 2) (s : State) : Run Unit :=
  match f.toNat with
  | 0 => .done () { s with tmp := { s.tmp with d := .oneBit } }
  | 1 => .done () { s with tmp := { s.tmp with d := .twoBit } }
  | 2 => .done () { s with tmp := { s.tmp with d := .eightBit } }
  | _ => .raised (.decode .invalidMode) s

/-- The paletteEmbedded field, bit 5 (R93). -/
def takePalette (f : BitVec 1) (s : State) : Run Unit :=
  .done () { s with tmp := { s.tmp with p := f.toNat != 0 } }

/-- The reserved bits 4:3: "any value of them is accepted and ignored" (R94). -/
def takeReserved (_f : BitVec 2) (s : State) : Run Unit := .done () s

/-- The channelLayout field, bits 2:1 (R93, R95). -/
def takeLayout (f : BitVec 2) (s : State) : Run Unit :=
  match f.toNat with
  | 0 => .done () { s with tmp := { s.tmp with l := .grayscale } }
  | 1 => .done () { s with tmp := { s.tmp with l := .rgb } }
  | 2 => .done () { s with tmp := { s.tmp with l := .rgba } }
  | _ => .raised (.decode .invalidMode) s

/-- The channelAccuracy field, bit 0 (R93). -/
def takeAccuracy (f : BitVec 1) (s : State) : Run Unit :=
  .done () { s with tmp := { s.tmp with acc := match f.toNat with | 0 => .twoBit | _ => .eightBit } }

/-- The fields of a mode byte, most significant first; either reserved pattern is `DecodeError(INVALID_MODE)`
(43_imagecodec_decode.md R202). -/
def takeModeByte (m : Byte) (s : State) : Run Unit :=
  (takeDepth (depthBits m) s).andThen fun _ s =>
  (takePalette (paletteBit m) s).andThen fun _ s =>
  (takeReserved (reservedBits m) s).andThen fun _ s =>
  (takeLayout (layoutBits m) s).andThen fun _ s =>
  takeAccuracy (accuracyBit m) s

/-- Row MODE.pixelDepth.OneBit: `dd == 00` (30_encoding.md R93). -/
def execModeDepthOneBit (s : State) : Host.Outcome State Fault Refusal := (takeDepth 0b00 s).finish

/-- Row MODE.pixelDepth.TwoBit: `dd == 01` (R93). -/
def execModeDepthTwoBit (s : State) : Host.Outcome State Fault Refusal := (takeDepth 0b01 s).finish

/-- Row MODE.pixelDepth.EightBit: `dd == 10` (R93). -/
def execModeDepthEightBit (s : State) : Host.Outcome State Fault Refusal := (takeDepth 0b10 s).finish

/-- Row MODE.pixelDepth.RESERVED: `dd == 11`, "DecodeError(INVALID_MODE) in DECODE" (R95). -/
def execModeDepthReserved (s : State) : Host.Outcome State Fault Refusal := (takeDepth 0b11 s).finish

/-- Row MODE.paletteEmbedded.No: `p == 0` (R93). -/
def execModePaletteNo (s : State) : Host.Outcome State Fault Refusal := (takePalette 0 s).finish

/-- Row MODE.paletteEmbedded.Yes: `p == 1` (R93). -/
def execModePaletteYes (s : State) : Host.Outcome State Fault Refusal := (takePalette 1 s).finish

/-- Row MODE.channelLayout.Grayscale: `ll == 00` (R93). -/
def execModeLayoutGrayscale (s : State) : Host.Outcome State Fault Refusal := (takeLayout 0b00 s).finish

/-- Row MODE.channelLayout.RGB: `ll == 01` (R93). -/
def execModeLayoutRgb (s : State) : Host.Outcome State Fault Refusal := (takeLayout 0b01 s).finish

/-- Row MODE.channelLayout.RGBA: `ll == 10` (R93). -/
def execModeLayoutRgba (s : State) : Host.Outcome State Fault Refusal := (takeLayout 0b10 s).finish

/-- Row MODE.channelLayout.RESERVED: `ll == 11`, "DecodeError(INVALID_MODE) in DECODE" (R95). -/
def execModeLayoutReserved (s : State) : Host.Outcome State Fault Refusal := (takeLayout 0b11 s).finish

/-- Row MODE.channelAccuracy.TwoBit: `a == 0` (R93). -/
def execModeAccuracyTwoBit (s : State) : Host.Outcome State Fault Refusal := (takeAccuracy 0 s).finish

/-- Row MODE.channelAccuracy.EightBit: `a == 1` (R93). -/
def execModeAccuracyEightBit (s : State) : Host.Outcome State Fault Refusal := (takeAccuracy 1 s).finish

/-- Row MODE.reserved43: the two reserved bits, ignored (R94). -/
def execModeReserved43 (rr : BitVec 2) (s : State) : Host.Outcome State Fault Refusal := (takeReserved rr s).finish

end Sys2Proof.Machine
end

