-- ==== Sys2Proof/Machine/Palette.lean ====
section
/-! DEFINITION. The Palette unit (42_palette.md): colour constructors, the 2-bit expansion, the default palettes, the palette
entries of the stream, and the commands QUANT1, QUANT2, QUANT8, COLOR, DEFCOLOR, LOADDEFPAL. -/

namespace Sys2Proof.Machine

/-- `expand2(v) = v | v<<2 | v<<4 | v<<6` (42_palette.md R173; 90_conflicts.md C2). -/
def expand2 (v : BitVec 2) : Byte :=
  let x : Byte := v.setWidth 8
  x ||| x <<< 2 ||| x <<< 4 ||| x <<< 6

/-- `Grayscale(v) = (v, v, v, 255)` (42_palette.md R172). -/
def Color.ofGray (v : Byte) : Color := { r := v, g := v, b := v, a := 255 }

/-- `RGB(r, g, b) = (r, g, b, 255)` (42_palette.md R172). -/
def Color.ofRgb (r g b : Byte) : Color := { r := r, g := g, b := b, a := 255 }

/-- The fully transparent sentinel `(0, 0, 0, 0)` (42_palette.md R177). -/
def Color.sentinel : Color := { r := 0, g := 0, b := 0, a := 0 }

/-! The default palettes. -/

/-- `DEF1[i]`: black, white (42_palette.md R178). -/
def def1 (i : Nat) : Color :=
  match i with
  | 0 => Color.ofGray 0x00
  | _ => Color.ofGray 0xFF

/-- `DEF2[i] = Grayscale(expand2(i))` (42_palette.md R179). -/
def def2 (i : Nat) : Color := Color.ofGray (expand2 (BitVec.ofNat 2 i))

/-- `DEF8[i]`: the index as four 2-bit fields, r lowest, a highest (42_palette.md R180). -/
def def8 (i : Nat) : Color :=
  let x : Byte := BitVec.ofNat 8 i
  { r := expand2 (x.extractLsb' 0 2)
    g := expand2 (x.extractLsb' 2 2)
    b := expand2 (x.extractLsb' 4 2)
    a := expand2 (x.extractLsb' 6 2) }

/-- Entry `i` of the default palette of a depth. -/
def defaultEntry (d : PixelDepth) (i : Nat) : Color :=
  match d with
  | .oneBit => def1 i
  | .twoBit => def2 i
  | .eightBit => def8 i

/-- The default palette of a depth, all its entries in index order (42_palette.md R178 to R180). -/
def defaultPalette (d : PixelDepth) : List Color := (List.range (colorCountFor d)).map (defaultEntry d)

/-! Palette entries in the stream. -/

/-- One channel of a palette entry: 8 bits, or 2 bits expanded (42_palette.md R183). -/
def readChannel (acc : ChannelAccuracy) (s : State) : Run Byte :=
  (readBits (bitsPerChannelFor acc) s).andThen fun v s =>
    match acc with
    | .twoBit => .done (expand2 (BitVec.ofNat 2 v)) s
    | .eightBit => .done (BitVec.ofNat 8 v) s

/-- `n` channels, one after the other. -/
def readChannels (acc : ChannelAccuracy) : Nat → State → Run (List Byte)
  | 0, s => .done [] s
  | n + 1, s =>
    (readChannel acc s).andThen fun c s => (readChannels acc n s).andThen fun cs s => .done (c :: cs) s

/-- The Color of a layout's channels, in the order r, g, b, a (42_palette.md R172, R183). -/
def colorOfChannels (l : ChannelLayout) (c : List Byte) : Color :=
  match l with
  | .grayscale => Color.ofGray (c.getD 0 0)
  | .rgb => Color.ofRgb (c.getD 0 0) (c.getD 1 0) (c.getD 2 0)
  | .rgba => { r := c.getD 0 0, g := c.getD 1 0, b := c.getD 2 0, a := c.getD 3 0 }

/-- `readEntry(l, acc)` (42_palette.md R183). -/
def readEntry (l : ChannelLayout) (acc : ChannelAccuracy) (s : State) : Run Color :=
  (readChannels acc (channelCountFor l) s).andThen fun c s => .done (colorOfChannels l c) s

/-- `n` entries, in index order. -/
def readEntries (l : ChannelLayout) (acc : ChannelAccuracy) : Nat → State → Run (List Color)
  | 0, s => .done [] s
  | n + 1, s =>
    (readEntry l acc s).andThen fun c s => (readEntries l acc n s).andThen fun cs s => .done (c :: cs) s

/-- The channels a layout stores of a Color (42_palette.md R184). -/
def storedChannels (l : ChannelLayout) (c : Color) : List Byte :=
  match l with
  | .grayscale => [c.r]
  | .rgb => [c.r, c.g, c.b]
  | .rgba => [c.r, c.g, c.b, c.a]

/-- What an accuracy stores of a channel: all of it, or its top two bits (42_palette.md R184). -/
def storedValue (acc : ChannelAccuracy) (c : Byte) : Nat :=
  match acc with
  | .twoBit => (c >>> 6).toNat
  | .eightBit => c.toNat

/-- Channels, one after the other. -/
def writeChannels (acc : ChannelAccuracy) : List Byte → State → Run Unit
  | [], s => .done () s
  | c :: cs, s =>
    (writeBits (storedValue acc c) (bitsPerChannelFor acc) s).andThen fun _ s => writeChannels acc cs s

/-- `writeEntry(color, l, acc)` (42_palette.md R184). -/
def writeEntry (c : Color) (l : ChannelLayout) (acc : ChannelAccuracy) (s : State) : Run Unit :=
  writeChannels acc (storedChannels l c) s

/-! The commands. -/

/-- The operand checks of the quantizers: four channels (42_palette.md R186). -/
def channelOperands (s : State) : List (OperandKind × Word) :=
  [(.byte, s.arg[0]), (.byte, s.arg[1]), (.byte, s.arg[2]), (.byte, s.arg[3])]

/-- The OneBit rule (42_palette.md R174). -/
def quantizeOneBit (r g b a : Word) : Word :=
  let lum := r ||| g ||| b
  if lum.toNat < 0x80 ∨ a.toNat < 0x80 then 0 else 1

/-- The TwoBit rule (42_palette.md R175). -/
def quantizeTwoBit (r g b a : Word) : Word :=
  if a.toNat < 0x80 then 0 else (r ||| g ||| b) >>> 6

/-- The EightBit rule (42_palette.md R176). -/
def quantizeEightBit (r g b a : Word) : Word :=
  r >>> 6 ||| (g &&& 0xC0#32) >>> 4 ||| (b &&& 0xC0#32) >>> 2 ||| (a &&& 0xC0#32)

/-- QUANT1 r, g, b, a (42_palette.md R174). -/
def execQuant1 (s : State) : Host.Outcome State Fault Refusal :=
  Run.finish <|
    (checkOperands (channelOperands s) s.begin).andThen fun _ s =>
    .done () (s.setRes0 (quantizeOneBit s.arg[0] s.arg[1] s.arg[2] s.arg[3]))

/-- QUANT2 r, g, b, a (42_palette.md R175). -/
def execQuant2 (s : State) : Host.Outcome State Fault Refusal :=
  Run.finish <|
    (checkOperands (channelOperands s) s.begin).andThen fun _ s =>
    .done () (s.setRes0 (quantizeTwoBit s.arg[0] s.arg[1] s.arg[2] s.arg[3]))

/-- QUANT8 r, g, b, a (42_palette.md R176). -/
def execQuant8 (s : State) : Host.Outcome State Fault Refusal :=
  Run.finish <|
    (checkOperands (channelOperands s) s.begin).andThen fun _ s =>
    .done () (s.setRes0 (quantizeEightBit s.arg[0] s.arg[1] s.arg[2] s.arg[3]))

/-- `palette.color(index)` on the current image's palette: the entry, or the sentinel (42_palette.md R177). -/
def currentColor (s : State) (i : Nat) : Color :=
  if i < colorCountFor s.depth then palEntry s.palram i else Color.sentinel

/-- COLOR index (42_palette.md R177). -/
def execColor (s : State) : Host.Outcome State Fault Refusal :=
  Run.finish <|
    (needImage s.begin).andThen fun _ s =>
    .done () (s.setResColor (currentColor s s.arg[0].toNat))

/-- `defaultPalette(depth).color(index)`: the entry, or the sentinel (42_palette.md R181). -/
def defaultColor (d : PixelDepth) (i : Nat) : Color :=
  if i < colorCountFor d then defaultEntry d i else Color.sentinel

/-- DEFCOLOR depth, index (42_palette.md R181). -/
def execDefcolor (s : State) : Host.Outcome State Fault Refusal :=
  Run.finish <|
    (checkOperands [(.depth, s.arg[0])] s.begin).andThen fun _ s =>
    .done () (s.setResColor (defaultColor (depthOf s.arg[0]) s.arg[1].toNat))

/-- LOADDEFPAL depth (42_palette.md R182). -/
def execLoaddefpal (s : State) : Host.Outcome State Fault Refusal :=
  Run.finish <|
    (checkOperands [(.depth, s.arg[0])] s.begin).andThen fun _ s =>
    .done () { s with
      imgValid := false
      palram := Memory.writeAll unlistedColor 0 (defaultPalette (depthOf s.arg[0])) s.palram }

end Sys2Proof.Machine
end

