-- ==== Sys2Proof/Machine/ImageDecode.lean ====
section
/-! DEFINITION. The ImageCodec unit, decode side (43_imagecodec_decode.md): DECODE, one definition for each of its six steps,
and COLORAT. -/

namespace Sys2Proof.Machine

/-- SIG, "the ASCII literal `IMRETRO`" (10_state.md R37; log entry 17). -/
def sigBytes : List Byte := [0x49, 0x4D, 0x52, 0x45, 0x54, 0x52, 0x4F]

/-- Step 1, signature (43_imagecodec_decode.md R201): the length is tested before the content. -/
def decodeSig (s : State) : Run Unit :=
  let s := s.goto .dSig
  if s.bitsLeft < 56 then .raised (.decode .insufficientBits) s
  else (readBytes 7 s).andThen fun bs s =>
    if bs = sigBytes then .done () s else .raised (.decode .invalidSignature) s

/-- Step 2, mode byte (43_imagecodec_decode.md R202). -/
def decodeMode (s : State) : Run Unit :=
  let s := s.goto .dMode
  if s.bitsLeft < 8 then .raised (.decode .missingModeByte) s
  else (readByte s).andThen takeModeByte

/-- Step 3, dimensions: width, then height (43_imagecodec_decode.md R203). -/
def decodeDim (s : State) : Run Unit :=
  let s := s.goto .dDim
  (readBits 12 s).andThen fun w s =>
  (readBits 12 s).andThen fun h s =>
  .done () { s with tmp := { s.tmp with w := BitVec.ofNat 12 w, h := BitVec.ofNat 12 h } }

/-- Step 4, palette: from the stream and then the padding, or the default of the depth (43_imagecodec_decode.md R204). -/
def decodePal (s : State) : Run Unit :=
  let s := s.goto .dPal
  if s.tmp.p then
    (readEntries s.tmp.l s.tmp.acc (colorCountFor s.tmp.d) s).andThen fun pal s =>
      .done () ({ s with tmp := { s.tmp with pal := pal } }.alignPos)
  else .done () { s with tmp := { s.tmp with pal := defaultPalette s.tmp.d } }

/-- `n` pixels of `bpp` bits, one after the other. -/
def readPixels (bpp : Nat) : Nat → State → Run (List Byte)
  | 0, s => .done [] s
  | n + 1, s =>
    (readBits bpp s).andThen fun v s =>
    (readPixels bpp n s).andThen fun vs s => .done (BitVec.ofNat 8 v :: vs) s

/-- Step 5, pixels: the shortage is tested once, before the first pixel (43_imagecodec_decode.md R205). -/
def decodePix (s : State) : Run Unit :=
  let s := s.goto .dPix
  let bpp := bitsPerPixelFor s.tmp.d
  let np := s.tmp.w.toNat * s.tmp.h.toNat
  if s.bitsLeft < np * bpp then .raised (.decode .pixelBits) s
  else (readPixels bpp np s).andThen fun pix s => .done () { s with tmp := { s.tmp with pix := pix } }

/-- Step 6, the image: only now are the image registers and memories written, all together (43_imagecodec_decode.md R206). The
sequencer then returns to IDLE and the step variables are gone (log entry 11). -/
def decodeDone (s : State) : Run Unit :=
  let s := s.goto .dDone
  .done () { s with
    depth := s.tmp.d
    palEmb := s.tmp.p
    layout := s.tmp.l
    acc := s.tmp.acc
    width := s.tmp.w
    height := s.tmp.h
    palram := Memory.writeAll unlistedColor 0 s.tmp.pal s.palram
    pixram := Memory.writeAll unlistedByte 0 s.tmp.pix s.pixram
    imgValid := true
    seq := .idle
    tmp := StepVars.empty }

/-- The six steps, strictly in order (43_imagecodec_decode.md R200, R211). -/
def decodeSteps (s : State) : Run Unit :=
  (decodeSig s).andThen fun _ s =>
  (decodeMode s).andThen fun _ s =>
  (decodeDim s).andThen fun _ s =>
  (decodePal s).andThen fun _ s =>
  (decodePix s).andThen fun _ s =>
  decodeDone s

/-- DECODE (43_imagecodec_decode.md R200): a pass of its own from bit 0, with no image until it has succeeded. -/
def execDecode (s : State) : Host.Outcome State Fault Refusal :=
  Run.finish <| decodeSteps { s.begin with imgValid := false, pos := 0, tmp := StepVars.empty }

/-- COLORAT x, y, `x = ARG[0]`, `y = ARG[1]` (43_imagecodec_decode.md R208; the pixel's address is 20_memory.md R78). -/
def execColorat (s : State) : Host.Outcome State Fault Refusal :=
  let x := s.arg[0].toNat
  let y := s.arg[1].toNat
  Run.finish <|
    (needImage s.begin).andThen fun _ s =>
    if s.width.toNat ≤ x ∨ s.height.toNat ≤ y then .raised (.assert .coordRange) s
    else .done () (s.setResColor (currentColor s (pixEntry s.pixram (y * s.width.toNat + x)).toNat))

end Sys2Proof.Machine
end

