-- ==== Sys2Proof/Machine/ImageEncode.lean ====
section
/-! DEFINITION. The ImageCodec unit, encode side (44_imagecodec_encode.md): sizes, BYTECOUNT, and ENCODE by its phases. -/

namespace Sys2Proof.Machine

/-- `paletteBits` of an image (44_imagecodec_encode.md R231). -/
def State.paletteBits (s : State) : Nat :=
  if s.palEmb then colorCountFor s.depth * channelCountFor s.layout * bitsPerChannelFor s.acc else 0

/-- `pixelBits` of an image (44_imagecodec_encode.md R231). -/
def State.pixelBits (s : State) : Nat := bitsPerPixelFor s.depth * s.pixelCount

/-- `byteCount` of an image (44_imagecodec_encode.md R230). -/
def State.byteCount (s : State) : Nat := 7 + 1 + 3 + ceil8 s.paletteBits + ceil8 s.pixelBits

/-- BYTECOUNT (44_imagecodec_encode.md R230). -/
def execBytecount (s : State) : Host.Outcome State Fault Refusal :=
  Run.finish <|
    (needImage s.begin).andThen fun _ s =>
    .done () (s.setRes0 (BitVec.ofNat 32 s.byteCount))

/-- The buffer check, before the first write (44_imagecodec_encode.md R234): a target must be long enough; without one the
block takes a buffer of exactly `byteCount` bytes, if BUF_MAX allows. -/
def encodeBuffer (hasTarget : Bool) (s : State) : Run Unit :=
  let s := s.goto .eCheck
  let n := s.byteCount
  if hasTarget then
    if s.bufLen < n then .raised (.bufferTooSmall n s.bufLen) s else .done () { s with pos := 0 }
  else
    if s.bufMax < n then .raised (.bufferTooSmall n s.bufMax) s else .done () { s with bufLen := n, pos := 0 }

/-- The seven signature bytes (44_imagecodec_encode.md R235). -/
def encodeSig (s : State) : Run Unit := writeBytes sigBytes (s.goto .eSig)

/-- The mode byte of the four mode registers (44_imagecodec_encode.md R235). -/
def encodeMode (s : State) : Run Unit :=
  writeBits (modeByteOf s.depth s.palEmb s.layout s.acc).toNat 8 (s.goto .eMode)

/-- WIDTH, then HEIGHT (44_imagecodec_encode.md R235). -/
def encodeDim (s : State) : Run Unit :=
  (writeBits s.width.toNat 12 (s.goto .eDim)).andThen fun _ s => writeBits s.height.toNat 12 s

/-- `n` entries of PALRAM from entry `i` on. -/
def writeEntries (i : Nat) : Nat → State → Run Unit
  | 0, s => .done () s
  | n + 1, s =>
    (writeEntry (palEntry s.palram i) s.layout s.acc s).andThen fun _ s => writeEntries (i + 1) n s

/-- The palette, only if it is embedded, and its padding (44_imagecodec_encode.md R236). -/
def encodePal (s : State) : Run Unit :=
  let s := s.goto .ePal
  if s.palEmb then (writeEntries 0 (colorCountFor s.depth) s).andThen fun _ s => writePad s
  else .done () s

/-- `n` entries of PIXRAM from entry `k` on, as fields of the depth's width. -/
def writePixels (k : Nat) : Nat → State → Run Unit
  | 0, s => .done () s
  | n + 1, s =>
    (writeBits (pixEntry s.pixram k).toNat (bitsPerPixelFor s.depth) s).andThen fun _ s => writePixels (k + 1) n s

/-- The pixel plane and its padding (44_imagecodec_encode.md R237). -/
def encodePix (s : State) : Run Unit :=
  let s := s.goto .ePix
  (writePixels 0 s.pixelCount s).andThen fun _ s => writePad s

/-- The result (44_imagecodec_encode.md R238), and the sequencer returns to IDLE. -/
def encodeDone (s : State) : Run Unit :=
  let s := s.goto .eDone
  .done () ({ s with outLen := s.byteCount, seq := .idle }.setRes0 (BitVec.ofNat 32 s.byteCount))

/-- What follows the checks, in order (44_imagecodec_encode.md R233). A write that raises would end it; after the checks none
does (R239), but in states no run reaches (log entry 15). -/
def encodeSteps (hasTarget : Bool) (s : State) : Run Unit :=
  (encodeBuffer hasTarget s).andThen fun _ s =>
  (encodeSig s).andThen fun _ s =>
  (encodeMode s).andThen fun _ s =>
  (encodeDim s).andThen fun _ s =>
  (encodePal s).andThen fun _ s =>
  (encodePix s).andThen fun _ s =>
  encodeDone s

/-- ENCODE hasTarget, `hasTarget = ARG[0]` (44_imagecodec_encode.md R233). -/
def execEncode (s : State) : Host.Outcome State Fault Refusal :=
  Run.finish <|
    (checkOperands [(.flag, s.arg[0])] s.begin).andThen fun _ s =>
    (needImage s).andThen fun _ s =>
    encodeSteps (flagOf s.arg[0]) s

end Sys2Proof.Machine
end

