-- ==== Sys2Proof/Machine/Dispatch.lean ====
section
/-! DEFINITION. One arm for each instruction. -/

namespace Sys2Proof.Machine

-- The meaning of each instruction.
def exec (i : Instr) (s : State) : Host.Outcome State Fault Refusal :=
  match i with
  | .newcursor => Sys2Proof.Machine.execNewcursor s
  | .readbits => Sys2Proof.Machine.execReadbits s
  | .readbyte => Sys2Proof.Machine.execReadbyte s
  | .writebits => Sys2Proof.Machine.execWritebits s
  | .mfDecode => Sys2Proof.Machine.execMfDecode s
  | .mfEncode => Sys2Proof.Machine.execMfEncode s
  | .colorcountfor => Sys2Proof.Machine.execColorcountfor s
  | .channelcountfor => Sys2Proof.Machine.execChannelcountfor s
  | .quant1 => Sys2Proof.Machine.execQuant1 s
  | .quant2 => Sys2Proof.Machine.execQuant2 s
  | .quant8 => Sys2Proof.Machine.execQuant8 s
  | .color => Sys2Proof.Machine.execColor s
  | .defcolor => Sys2Proof.Machine.execDefcolor s
  | .loaddefpal => Sys2Proof.Machine.execLoaddefpal s
  | .decode => Sys2Proof.Machine.execDecode s
  | .colorat => Sys2Proof.Machine.execColorat s
  | .bytecount => Sys2Proof.Machine.execBytecount s
  | .encode => Sys2Proof.Machine.execEncode s
  | .build => Sys2Proof.Machine.execBuild s
  | .modeDepthOneBit => Sys2Proof.Machine.execModeDepthOneBit s
  | .modeDepthTwoBit => Sys2Proof.Machine.execModeDepthTwoBit s
  | .modeDepthEightBit => Sys2Proof.Machine.execModeDepthEightBit s
  | .modeDepthReserved => Sys2Proof.Machine.execModeDepthReserved s
  | .modePaletteNo => Sys2Proof.Machine.execModePaletteNo s
  | .modePaletteYes => Sys2Proof.Machine.execModePaletteYes s
  | .modeLayoutGrayscale => Sys2Proof.Machine.execModeLayoutGrayscale s
  | .modeLayoutRgb => Sys2Proof.Machine.execModeLayoutRgb s
  | .modeLayoutRgba => Sys2Proof.Machine.execModeLayoutRgba s
  | .modeLayoutReserved => Sys2Proof.Machine.execModeLayoutReserved s
  | .modeAccuracyTwoBit => Sys2Proof.Machine.execModeAccuracyTwoBit s
  | .modeAccuracyEightBit => Sys2Proof.Machine.execModeAccuracyEightBit s
  | .modeReserved43 rr => Sys2Proof.Machine.execModeReserved43 rr s

end Sys2Proof.Machine
end

