-- ==== Sys2Proof/Machine/HostPort.lean ====
section
/-! DEFINITION. The host's access to the block (45_host_system.md R251 to R253): its writes and reads, and the command a write
of CMD starts. -/

namespace Sys2Proof.Machine

/-- One channel of a Color, in the order r, g, b, a. -/
def Color.channel (c : Color) (i : Fin 4) : Byte :=
  match i.val with
  | 0 => c.r
  | 1 => c.g
  | 2 => c.b
  | _ => c.a

/-- What the host reads (45_host_system.md R251); a fault for an entry that does not exist, of BUF one at or above BUF_LEN
(10_state.md R21; log entry 12). A register the spec
leaves unspecified reads as what the model holds (log entries 2 and 4). -/
def portRead (r : PortReg) (s : State) : Except Fault Nat :=
  match r with
  | .buf j => if j < s.bufLen then .ok (bufByte s.buf j).toNat else .error (.noSuchBufByte j)
  | .bufLen => .ok s.bufLen
  | .pos => .ok s.pos
  | .depth => .ok s.depth.code
  | .palEmb => .ok s.palEmb.toNat
  | .layout => .ok s.layout.code
  | .acc => .ok s.acc.code
  | .width => .ok s.width.toNat
  | .height => .ok s.height.toNat
  | .palram i c => .ok ((palEntry s.palram i.toNat).channel c).toNat
  | .pixram k => if k < pixMax then .ok (pixEntry s.pixram k).toNat else .error (.noSuchPixel k)
  | .imgValid => .ok s.imgValid.toNat
  | .cmd => .ok s.cmd.toNat
  | .arg i => .ok s.arg[i].toNat
  | .res i => .ok s.res[i].toNat
  | .err => .ok s.err.toNat
  | .errSub => .ok s.errSub.toNat
  | .errReq => .ok s.errReq.toNat
  | .errAct => .ok s.errAct.toNat
  | .outLen => .ok s.outLen

/-- `BUF[j] <- b`; the capacity is BUF_MAX, and BUF_LEN need not be set yet (30_encoding.md R116; log entries 12 and 13). -/
def portWriteBuf (j : Nat) (b : Byte) (s : State) : Host.Outcome State Fault Refusal :=
  if j < s.bufMax then .next { s with buf := Memory.write unlistedByte j b s.buf } else .fault (.noSuchBufByte j)

/-- `BUF_LEN <- n`, with `n` at most BUF_MAX (45_host_system.md R251; log entry 12). POS stays where it is
(70_reset_and_hazards.md R306). -/
def portWriteBufLen (n : Nat) (s : State) : Host.Outcome State Fault Refusal :=
  if n ≤ s.bufMax then .next { s with bufLen := n } else .refused (.bufLenAboveMax n)

/-- `PALRAM[i] <- c`, which clears IMG_VALID (45_host_system.md R252). -/
def portWritePal (i : Byte) (c : Color) (s : State) : Host.Outcome State Fault Refusal :=
  .next { s with palram := Memory.write unlistedColor i.toNat c s.palram, imgValid := false }

/-- `PIXRAM[k] <- v`, which clears IMG_VALID (45_host_system.md R252). -/
def portWritePix (k : Nat) (v : Byte) (s : State) : Host.Outcome State Fault Refusal :=
  if k < pixMax then .next { s with pixram := Memory.write unlistedByte k v s.pixram, imgValid := false }
  else .fault (.noSuchPixel k)

/-- `ARG[i] <- v`. -/
def portWriteArg (i : Fin 6) (v : Word) (s : State) : Host.Outcome State Fault Refusal :=
  .next { s with arg := s.arg.set i v }

/-- A host read changes nothing (20_memory.md R67: no address has a read side effect). -/
def portReadAction (r : PortReg) (s : State) : Host.Outcome State Fault Refusal :=
  match portRead r s with
  | .ok _ => .next s
  | .error f => .fault f

/-- The opcode in CMD, as the bytes a command is decoded from. -/
def State.commandBytes (s : State) : List Byte := [s.cmd]

/-- A write of CMD of an opcode that is no command (45_host_system.md R253): `AssertFault(BAD_COMMAND)`, nothing else.
CMD keeps the opcode (log entry 14). -/
def illegalCommand (s : State) : Host.Outcome State Fault Refusal := .next (s.raise (.assert .badCommand))

/-- The state in which the very next step runs the command of a word: the host's next action is to write it to CMD. -/
def placeCommand (nbits w : Nat) (s : State) : State :=
  { s with script := .writeCmd (BitVec.ofNat 8 (w % 2 ^ nbits)) :: s.script }

end Sys2Proof.Machine
end

