-- ==== Sys2Proof/Machine/Step.lean ====
section
/-! DEFINITION. One step: the host's next action, and for a write of CMD the whole command it starts. -/

namespace Sys2Proof.Machine

/-- The command whose opcode CMD holds, from start to end (10_state.md R20; 20_memory.md R67). -/
def runCommand (s : State) : Host.Outcome State Fault Refusal :=
  match decodeCommand s.commandBytes with
  | .instr i _ => exec i s
  | .reject _ => illegalCommand s

/-- What one action of the host does (45_host_system.md R251). -/
def act (a : PortAction) (s : State) : Host.Outcome State Fault Refusal :=
  match a with
  | .writeBuf j b => portWriteBuf j b s
  | .writeBufLen n => portWriteBufLen n s
  | .writePal i c => portWritePal i c s
  | .writePix k v => portWritePix k v s
  | .writeArg i v => portWriteArg i v s
  | .writeCmd op => runCommand { s with cmd := op }
  | .read r => portReadAction r s

/-- One step. With no action to come the block is idle and waits (70_reset_and_hazards.md R301). -/
def step (s : State) : Host.Outcome State Fault Refusal :=
  match s.script with
  | [] => .next s
  | a :: rest => act a { s with script := rest }

/-- `s` with a word of the opcode table where step fetches its next instruction: written to CMD by the host's next
action (log entry 9). -/
def State.withFetchWord (s : State) (nbits w : Nat) : State := placeCommand nbits w s

end Sys2Proof.Machine
end

