-- ==== Sys2Proof/Safety.lean ====
section
/-! DEFINITION. The terms the statements use: the invariant of the block, the states a raise leaves, the layout of a stream read
from the buffer without the sequencer, and the stream an image encodes to. -/

namespace Sys2Proof.Machine

/-! The invariant. -/

/-- The pairs of ERR and ERR_SUB a command can leave (60_exceptions.md R270, R273). -/
def LegalErr (e sub : BitVec 4) : Prop :=
  ((e = 0 ∨ e = 1 ∨ e = 2 ∨ e = 3 ∨ e = 4 ∨ e = 5 ∨ e = 8) ∧ sub = 0) ∨ (e = 15 ∧ 1 ≤ sub.toNat ∧ sub.toNat ≤ 10)

/-- Every pixel of the current image is an index of its palette (10_state.md R36). -/
def PixelsInRange (s : State) : Prop :=
  ∀ k, k < s.pixelCount → (pixEntry s.pixram k).toNat < colorCountFor s.depth

/-- What every step keeps. It leaves out `POS ≤ 8 * BUF_LEN`, which the host can break (10_state.md R22). -/
structure Inv (s : State) : Prop where
  bufWf    : Memory.wf unlistedByte s.buf
  palWf    : Memory.wf unlistedColor s.palram
  pixWf    : Memory.wf unlistedByte s.pixram
  bufBelow : Memory.below s.bufMax s.buf
  palBelow : Memory.below 256 s.palram
  pixBelow : Memory.below pixMax s.pixram
  lenMax   : s.bufLen ≤ s.bufMax
  image    : s.imgValid = true → PixelsInRange s
  errLegal : LegalErr s.err s.errSub
  idle     : s.seq = .idle
  noVars   : s.tmp = StepVars.empty

/-! How a command ends. In each of these `t` is the state after it and everything not named is as in `s`. -/

/-- The command raised, with nothing written but the status, RES (unspecified) and the end of the sequence
(60_exceptions.md R276, R279). -/
def RaisedOnly (e sub : BitVec 4) (s t : State) : Prop :=
  t = { s with err := e, errSub := sub, res := t.res, freeCtr := t.freeCtr, seq := .idle, tmp := StepVars.empty }

/-- The command raised an EncodeError with these sizes (60_exceptions.md R272, R276). -/
def RaisedTooSmall (required actual : Nat) (s t : State) : Prop :=
  t = { s with err := 8, errSub := 0, errReq := t.errReq, errAct := t.errAct, res := t.res, freeCtr := t.freeCtr,
               seq := .idle, tmp := StepVars.empty } ∧
  (required < 2 ^ 32 → t.errReq.toNat = required) ∧ (actual < 2 ^ 32 → t.errAct.toNat = actual)

/-- DECODE raised `e` at position `q` (43_imagecodec_decode.md R210, 60_exceptions.md R277). -/
def RaisedInDecode (e : BitVec 4) (q : Nat) (s t : State) : Prop :=
  t = { s with err := e, errSub := 0, imgValid := false, pos := q, res := t.res, freeCtr := t.freeCtr,
               seq := .idle, tmp := StepVars.empty }

/-- The command succeeded and wrote nothing but RES and the cleared status. -/
def AnsweredOnly (s t : State) : Prop := t = { s with err := 0, errSub := 0, res := t.res }

/-- RES[1], RES[2], RES[3] are unchanged. -/
def OthersOfResKept (s t : State) : Prop := t.res[1] = s.res[1] ∧ t.res[2] = s.res[2] ∧ t.res[3] = s.res[3]

/-- RES[0..3] hold a Color (30_encoding.md R112). -/
def ResHolds (c : Color) (t : State) : Prop :=
  t.res[0].toNat = c.r.toNat ∧ t.res[1].toNat = c.g.toNat ∧ t.res[2].toNat = c.b.toNat ∧ t.res[3].toNat = c.a.toNat

/-- ARG[0..3] are channel values (42_palette.md R186). -/
def ChannelOperands (s : State) : Prop :=
  s.arg[0].toNat ≤ 255 ∧ s.arg[1].toNat ≤ 255 ∧ s.arg[2].toNat ≤ 255 ∧ s.arg[3].toNat ≤ 255

/-- The operands of BUILD are in their ranges (45_host_system.md R250). -/
def BuildOperands (s : State) : Prop :=
  s.arg[0].toNat ≤ 2 ∧ s.arg[1].toNat ≤ 1 ∧ s.arg[2].toNat ≤ 2 ∧ s.arg[3].toNat ≤ 1 ∧
  s.arg[4].toNat ≤ 4095 ∧ s.arg[5].toNat ≤ 4095

/-- ARG[0] made `v`, as the host's write would. -/
def State.withArg0 (v : Nat) (s : State) : State := { s with arg := s.arg.set 0 (BitVec.ofNat 32 v) }

/-- ARG[0] and ARG[1] made `v` and `w`. -/
def State.withArg01 (v w : Nat) (s : State) : State :=
  { s with arg := (s.arg.set 0 (BitVec.ofNat 32 v)).set 1 (BitVec.ofNat 32 w) }

/-! The stream in BUF, read by offsets (20_memory.md R69, 30_encoding.md R91 to R99). -/

/-- The first seven bytes are `IMRETRO` (30_encoding.md R92). -/
def HasSignature (m : List Host.Cell) : Prop :=
  (List.range 7).map (bufByte m) = [0x49, 0x4D, 0x52, 0x45, 0x54, 0x52, 0x4F]

/-- `dd` of the mode byte (30_encoding.md R93). -/
def streamDepth (m : List Host.Cell) : Nat := (bufByte m 7).toNat / 64

/-- `p` of the mode byte. -/
def streamPalette (m : List Host.Cell) : Nat := (bufByte m 7).toNat / 32 % 2

/-- The reserved bits of the mode byte. -/
def streamReserved (m : List Host.Cell) : Nat := (bufByte m 7).toNat / 8 % 4

/-- `ll` of the mode byte. -/
def streamLayout (m : List Host.Cell) : Nat := (bufByte m 7).toNat / 2 % 4

/-- `a` of the mode byte. -/
def streamAccuracy (m : List Host.Cell) : Nat := (bufByte m 7).toNat % 2

/-- `width = (b8 << 4) | (b9 >> 4)` (30_encoding.md R96). -/
def streamWidth (m : List Host.Cell) : Nat := (bufByte m 8).toNat * 16 + (bufByte m 9).toNat / 16

/-- `height = ((b9 & 0x0F) << 8) | b10` (30_encoding.md R96). -/
def streamHeight (m : List Host.Cell) : Nat := (bufByte m 9).toNat % 16 * 256 + (bufByte m 10).toNat

/-- Bits per pixel of a depth value (30_encoding.md R99). -/
def bppOf (d : Nat) : Nat := if d = 0 then 1 else if d = 1 then 2 else 8

/-- Colour count of a depth value: `2 ^ bpp` (41_modeflags.md R152). -/
def ccOf (d : Nat) : Nat := 2 ^ bppOf d

/-- Channel count of a layout value (41_modeflags.md R153). -/
def chOf (l : Nat) : Nat := if l = 0 then 1 else if l = 1 then 3 else 4

/-- Bits per channel of an accuracy value (41_modeflags.md R155). -/
def bpcOf (a : Nat) : Nat := if a = 0 then 2 else 8

/-- Bits of the palette section (30_encoding.md R97, R107). -/
def streamPaletteBits (m : List Host.Cell) : Nat :=
  streamPalette m * (ccOf (streamDepth m) * chOf (streamLayout m) * bpcOf (streamAccuracy m))

/-- `P0 = 88 + 8*ceil8(paletteBits)`, where the pixel plane begins (20_memory.md R69). -/
def streamP0 (m : List Host.Cell) : Nat := 88 + 8 * ceil8 (streamPaletteBits m)

/-- Pixels of the stream. -/
def streamPixels (m : List Host.Cell) : Nat := streamWidth m * streamHeight m

/-- The position after the last pixel bit. -/
def streamEnd (m : List Host.Cell) : Nat := streamP0 m + streamPixels m * bppOf (streamDepth m)

/-- A stored channel value as a channel: `v * 0x55` for two bits (30_encoding.md R98). -/
def channelOf (a v : Nat) : Nat := if a = 0 then v * 0x55 else v

/-- Channel `j` of palette entry `i` in the stream (30_encoding.md R97). -/
def streamChannel (m : List Host.Cell) (i j : Nat) : Nat :=
  channelOf (streamAccuracy m)
    (memRead m (88 + (i * chOf (streamLayout m) + j) * bpcOf (streamAccuracy m)) (bpcOf (streamAccuracy m)))

/-- A Color by its channel values. -/
def Color.Is (c : Color) (r g b a : Nat) : Prop :=
  c.r.toNat = r ∧ c.g.toNat = g ∧ c.b.toNat = b ∧ c.a.toNat = a

/-- The Color is that of palette entry `i` in the stream (42_palette.md R172, R183). -/
def IsStreamColor (m : List Host.Cell) (i : Nat) (c : Color) : Prop :=
  if streamLayout m = 0 then c.Is (streamChannel m i 0) (streamChannel m i 0) (streamChannel m i 0) 255
  else if streamLayout m = 1 then c.Is (streamChannel m i 0) (streamChannel m i 1) (streamChannel m i 2) 255
  else c.Is (streamChannel m i 0) (streamChannel m i 1) (streamChannel m i 2) (streamChannel m i 3)

/-- The Color is entry `i` of the default palette of a depth value (42_palette.md R178 to R180). -/
def IsDefaultColor (d i : Nat) (c : Color) : Prop :=
  if d = 0 then c.Is (255 * i) (255 * i) (255 * i) 255
  else if d = 1 then c.Is (85 * i) (85 * i) (85 * i) 255
  else c.Is (85 * (i % 4)) (85 * (i / 4 % 4)) (85 * (i / 16 % 4)) (85 * (i / 64 % 4))

/-- The stream has a signature, a mode byte both of whose patterns name an enumerator, and room for all its sections
(43_imagecodec_decode.md R201 to R205): what DECODE accepts. -/
def DecodeAccepts (m : List Host.Cell) (len : Nat) : Prop :=
  88 ≤ 8 * len ∧ HasSignature m ∧ streamDepth m ≠ 3 ∧ streamLayout m ≠ 3 ∧ streamEnd m ≤ 8 * len

/-- The two reserved bits and every padding bit of the stream are zero (30_encoding.md R94, 20_memory.md R68). -/
def SpareBitsZero (m : List Host.Cell) : Prop :=
  streamReserved m = 0 ∧
  (∀ p, 88 + streamPaletteBits m ≤ p → p < streamP0 m → bufBit m p = false) ∧
  (∀ p, streamEnd m ≤ p → p < 8 * ceil8 (streamEnd m) → bufBit m p = false)

/-! The image in the registers. -/

/-- `P0` of the current image (20_memory.md R69). -/
def State.imageP0 (s : State) : Nat := 88 + 8 * ceil8 s.paletteBits

/-- What ENCODE stores of a channel: all of it, or its top two bits (42_palette.md R184). -/
def keptValue (acc : ChannelAccuracy) (c : Byte) : Nat :=
  match acc with
  | .twoBit => c.toNat / 64
  | .eightBit => c.toNat

/-- The channel that comes back from a stored one: `c`, or `expand2(c >> 6)` (42_palette.md R185). -/
def returnedChannel (acc : ChannelAccuracy) (c : Byte) : Nat :=
  match acc with
  | .twoBit => 0x55 * (c.toNat / 64)
  | .eightBit => c.toNat

/-- The Color that comes back from a stored entry (42_palette.md R185). -/
def IsReturnedColor (l : ChannelLayout) (acc : ChannelAccuracy) (c c' : Color) : Prop :=
  match l with
  | .grayscale => c'.Is (returnedChannel acc c.r) (returnedChannel acc c.r) (returnedChannel acc c.r) 255
  | .rgb => c'.Is (returnedChannel acc c.r) (returnedChannel acc c.g) (returnedChannel acc c.b) 255
  | .rgba => c'.Is (returnedChannel acc c.r) (returnedChannel acc c.g) (returnedChannel acc c.b) (returnedChannel acc c.a)

/-- Channel `j` of a Color in the order r, g, b, a. -/
def Color.nth (c : Color) (j : Nat) : Byte :=
  if j = 0 then c.r else if j = 1 then c.g else if j = 2 then c.b else c.a

/-- BUF holds the encoding of the image of `s` (44_imagecodec_encode.md R235 to R237): signature, mode byte, dimensions, the
palette if it is embedded and its padding, the pixels and their padding. -/
def HoldsEncoding (s : State) (m : List Host.Cell) : Prop :=
  HasSignature m ∧
  (bufByte m 7).toNat = 64 * s.depth.code + 32 * s.palEmb.toNat + 2 * s.layout.code + s.acc.code ∧
  (bufByte m 8).toNat = s.width.toNat / 16 ∧
  (bufByte m 9).toNat = s.width.toNat % 16 * 16 + s.height.toNat / 256 ∧
  (bufByte m 10).toNat = s.height.toNat % 256 ∧
  (s.palEmb = true → ∀ i j, i < colorCountFor s.depth → j < channelCountFor s.layout →
    memRead m (88 + (i * channelCountFor s.layout + j) * bitsPerChannelFor s.acc) (bitsPerChannelFor s.acc) =
      keptValue s.acc ((palEntry s.palram i).nth j)) ∧
  (∀ p, 88 + s.paletteBits ≤ p → p < s.imageP0 → bufBit m p = false) ∧
  (∀ k, k < s.pixelCount →
    memRead m (s.imageP0 + k * bitsPerPixelFor s.depth) (bitsPerPixelFor s.depth) = (pixEntry s.pixram k).toNat) ∧
  (∀ p, s.imageP0 + s.pixelBits ≤ p → p < 8 * s.byteCount → bufBit m p = false)

/-- ENCODE may start: `hasTarget` is a flag, there is an image, and the buffer it is to use is long enough
(44_imagecodec_encode.md R233, R234). -/
def EncodeAccepts (s : State) : Prop :=
  s.imgValid = true ∧
  ((s.arg[0].toNat = 1 ∧ s.byteCount ≤ s.bufLen) ∨ (s.arg[0].toNat = 0 ∧ s.byteCount ≤ s.bufMax))

/-- Instructions one after the other, each from the state the one before it left. -/
def runRows : List Instr → State → Host.Outcome State Fault Refusal
  | [], s => .next s
  | i :: is, s =>
    match exec i s with
    | .next t => runRows is t
    | .fault f => .fault f
    | .refused r => .refused r

/-- The host may do this action now (45_host_system.md R251): the entry it names exists, and BUF_LEN stays within BUF_MAX. -/
def ActionAllowed (s : State) : PortAction → Prop
  | .writeBuf j _ => j < s.bufMax
  | .writeBufLen n => n ≤ s.bufMax
  | .writePix k _ => k < pixMax
  | .read (.buf j) => j < s.bufLen
  | .read (.pixram k) => k < pixMax
  | _ => True

/-- The step that comes next is safe: it is no action the spec tells the host not to do. -/
def NextActionAllowed (s : State) : Prop := ∀ a ∈ s.script.head?, ActionAllowed s a

end Sys2Proof.Machine
end

