-- ==== Sys2Proof/Certificates/Slice0/Obligations.lean ====
section
/-! DEFINITION. The statements for the provers. Each docstring names the rule of spec/ it formalises, and says where it rests on
a choice of the model. No statement rests on a free value or on what unwritten memory reads as. -/

open Sys2Proof Sys2Proof.Machine

/-! Reset, the host and the step. -/

/-- 70_reset_and_hazards.md R300: the values reset gives, and the constants. -/
def Obligations.ResetHoldsTheSpecValues : Prop :=
  State.reset.pos = 0 ∧ State.reset.bufLen = 0 ∧ State.reset.imgValid = false ∧
  State.reset.err = 0 ∧ State.reset.errSub = 0 ∧ State.reset.seq = .idle ∧
  sigBytes = [0x49, 0x4D, 0x52, 0x45, 0x54, 0x52, 0x4F] ∧
  (∀ d, (defaultPalette d).length = colorCountFor d) ∧
  (∀ d i, i < colorCountFor d → ∃ c, (defaultPalette d)[i]? = some c ∧ IsDefaultColor d.code i c)

/-- 70_reset_and_hazards.md R301. That the host's coming actions are a list is the model's choice (log entry 1). -/
def Obligations.IdleBlockWaits : Prop :=
  (∀ s : State, s.script = [] → step s = .next s) ∧ step State.reset = .next State.reset

/-- The command whose opcode the host writes to CMD is the one that runs (10_state.md R38, 30_encoding.md R110); `withFetchWord`
is that write (log entry 9). -/
def Obligations.StepRunsTheDecodedCommand : Prop :=
  (∀ (s : State) (op : Byte) (rest : List PortAction) (i : Instr), s.script = .writeCmd op :: rest →
    decodeOpcode op = some i → step s = exec i { s with script := rest, cmd := op }) ∧
  (∀ (s : State) (w : Nat) (i : Instr), decodeTableWord 8 w = some i →
    step (s.withFetchWord 8 w) = exec i { s with cmd := BitVec.ofNat 8 w })

/-- 30_encoding.md R114, 45_host_system.md R253. That CMD keeps the opcode is log entry 14, that the write is an action of the
script log entry 1. -/
def Obligations.IllegalOpcodeRaisesBadCommand : Prop :=
  ∀ (s : State) (op : Byte) (rest : List PortAction), s.script = .writeCmd op :: rest →
    op ∉ ([0x01, 0x02, 0x03, 0x04, 0x10, 0x11, 0x12, 0x13, 0x20, 0x21, 0x22, 0x23, 0x24, 0x25,
           0x30, 0x31, 0x32, 0x33, 0x34] : List Byte) →
    ∃ t, step s = .next t ∧ RaisedOnly 15 9 { s with script := rest, cmd := op } t

/-- 30_encoding.md R113: opcodes written out from its table. -/
def Obligations.OpcodesDecodeAsTheTableSays : Prop :=
  decodeOpcode 0b00000001 = some .newcursor ∧ decodeOpcode 0b00000100 = some .writebits ∧
  decodeOpcode 0b00010001 = some .mfEncode ∧ decodeOpcode 0b00100010 = some .quant8 ∧
  decodeOpcode 0b00110000 = some .decode ∧ decodeOpcode 0b00110100 = some .build ∧
  decodeModeField .pixelDepth 0b10100101 = .modeDepthEightBit ∧
  decodeModeField .paletteEmbedded 0b10100101 = .modePaletteYes ∧
  decodeModeField .channelLayout 0b10100101 = .modeLayoutRgba ∧
  decodeModeField .channelAccuracy 0b10100101 = .modeAccuracyEightBit

/-- Every instruction comes back from its byte, every legal opcode from its command, and every mode byte from its five rows
(30_encoding.md R93, R113). -/
def Obligations.EncodingsRoundTrip : Prop :=
  (∀ i : Instr, decodeIn i.encoding (encodeInstr i) = some i) ∧
  (∀ (b : Byte) (i : Instr), decodeOpcode b = some i → encodeInstr i = b ∧ i.isCommand = true) ∧
  (∀ m : Byte, encodeModeByte (decodeModeByte m) = m)

/-- 45_host_system.md R251 and R252: what a host write does, and that only those of PALRAM and PIXRAM clear IMG_VALID. That
the accesses are actions of a script is the model's choice (log entry 1). So is what it says of bytes at or above BUF_LEN: the
host may write one below BUF_MAX, and a longer BUF_LEN uncovers it unchanged (log entry 13). -/
def Obligations.HostWritesDoWhatTheyName : Prop :=
  ∀ (s : State) (rest : List PortAction), Inv s →
    (∀ j b, s.script = .writeBuf j b :: rest → j < s.bufMax → ∃ t, step s = .next t ∧
      (∀ a, bufByte t.buf a = if a = j then b else bufByte s.buf a) ∧ t = { s with script := rest, buf := t.buf }) ∧
    (∀ n, s.script = .writeBufLen n :: rest → n ≤ s.bufMax →
      step s = .next { s with script := rest, bufLen := n }) ∧
    (∀ i c, s.script = .writePal i c :: rest → ∃ t, step s = .next t ∧
      (∀ a, palEntry t.palram a = if a = i.toNat then c else palEntry s.palram a) ∧
      t = { s with script := rest, palram := t.palram, imgValid := false }) ∧
    (∀ k v, s.script = .writePix k v :: rest → k < pixMax → ∃ t, step s = .next t ∧
      (∀ a, pixEntry t.pixram a = if a = k then v else pixEntry s.pixram a) ∧
      t = { s with script := rest, pixram := t.pixram, imgValid := false }) ∧
    (∀ i v, s.script = .writeArg i v :: rest → ∃ t, step s = .next t ∧
      (∀ j : Fin 6, t.arg[j] = if j = i then v else s.arg[j]) ∧ t = { s with script := rest, arg := t.arg }) ∧
    (∀ r v, s.script = .read r :: rest → portRead r s = .ok v → step s = .next { s with script := rest })

/-- 10_state.md R20: every instruction ends in a next state, in every state; an exception is one (60_exceptions.md R276). -/
def Obligations.EveryInstructionAnswersANextState : Prop :=
  ∀ (i : Instr) (s : State), ∃ t, exec i s = .next t

/-- The machine stops only where the host breaks a rule of 45_host_system.md R251 (log entry 12). -/
def Obligations.StepStopsOnlyForTheHost : Prop :=
  ∀ s : State, NextActionAllowed s ↔ ∃ t, step s = .next t

/-! The invariant. -/

/-- The invariant holds after reset. -/
def Obligations.InvariantHoldsAtReset : Prop := Inv State.reset

/-- Every step keeps the invariant: canonical memories within their sizes, BUF_LEN within BUF_MAX, the pixels of a valid image in
range (10_state.md R36), a legal ERR and ERR_SUB (60_exceptions.md R270, R273), SEQ back at IDLE (10_state.md R41). The canonical
form is the model's (log entry 3), so are the step variables (log entry 11). -/
def Obligations.InvariantKeptByEveryStep : Prop :=
  ∀ s t : State, Inv s → step s = .next t → Inv t

/-- 10_state.md R23, 40_bitcursor.md R130: every command keeps POS inside the buffer. -/
def Obligations.CommandsKeepPosInsideTheBuffer : Prop :=
  ∀ (i : Instr) (s t : State), i.isCommand = true → s.pos ≤ 8 * s.bufLen → exec i s = .next t → t.pos ≤ 8 * t.bufLen

/-- 10_state.md R44, column by column, and R38 for ARG and RES: what each command leaves as it was. -/
def Obligations.CommandsTouchOnlyTheirRowOfR44 : Prop :=
  ∀ (i : Instr) (s t : State), i.isCommand = true → exec i s = .next t →
    t.arg = s.arg ∧ t.cmd = s.cmd ∧ t.bufMax = s.bufMax ∧ t.script = s.script ∧
    (i ∉ [Instr.writebits, .encode] → t.buf = s.buf ∧ t.errReq = s.errReq ∧ t.errAct = s.errAct) ∧
    (i ≠ .encode → t.bufLen = s.bufLen ∧ t.outLen = s.outLen) ∧
    (i ∉ [Instr.newcursor, .readbits, .readbyte, .writebits, .decode, .encode] → t.pos = s.pos) ∧
    (i ∉ [Instr.decode, .build] →
      t.depth = s.depth ∧ t.palEmb = s.palEmb ∧ t.layout = s.layout ∧ t.acc = s.acc ∧
      t.width = s.width ∧ t.height = s.height) ∧
    (i ∉ [Instr.loaddefpal, .decode] → t.palram = s.palram) ∧
    (i ≠ .decode → t.pixram = s.pixram) ∧
    (i ∉ [Instr.loaddefpal, .decode, .build] → t.imgValid = s.imgValid) ∧
    (t.err = 0 → i ∈ [Instr.newcursor, .writebits, .loaddefpal, .decode, .build] → t.res = s.res) ∧
    (t.err = 0 → i ∉ [Instr.mfDecode, .color, .defcolor, .colorat] → OthersOfResKept s t)

/-- 10_state.md R39 and 60_exceptions.md R281: no command reads ERR or ERR_SUB; each clears them at its start.
That RES is the same too in two runs that raise, where R276 leaves it unspecified, is the model's choice: both take the free values
of one counter (log entry 4). -/
def Obligations.CommandsIgnoreTheLastError : Prop :=
  ∀ (i : Instr) (s : State) (e sub : BitVec 4), i.isCommand = true → exec i { s with err := e, errSub := sub } = exec i s

/-! Exceptions. -/

/-- 60_exceptions.md R276 with the codes of R270 and R273. The size registers take sizes below 2^32 (log entry 6). -/
def Obligations.RaiseWritesTheCodes : Prop :=
  (∀ (s : State) (c : DecodeCause), RaisedOnly
    (match c with
      | .invalidSignature => 1 | .missingModeByte => 2 | .insufficientBits => 3 | .pixelBits => 4 | .invalidMode => 5)
    0 s (s.raise (.decode c))) ∧
  (∀ (s : State) (q c : Nat), RaisedTooSmall q c s (s.raise (.bufferTooSmall q c))) ∧
  (∀ (s : State) (c : AssertCause), RaisedOnly 15
    (match c with
      | .badDepth => 1 | .badLayout => 2 | .badBitcount => 3 | .valueTooWide => 4 | .coordRange => 5
      | .noImage => 6 | .pixelRange => 7 | .dimRange => 8 | .badCommand => 9 | .badOperand => 10)
    s (s.raise (.assert c)))

/-- 60_exceptions.md R272: after an EncodeError the required size is above the actual one, for sizes the registers hold (log
entry 6). -/
def Obligations.RequiredSizeExceedsActualSize : Prop :=
  ∀ (i : Instr) (s t : State), i.isCommand = true → s.bufLen + 4 < 2 ^ 32 → ceil8 (s.pos + 32) < 2 ^ 32 →
    exec i s = .next t → t.err = 8 → t.errAct.toNat < t.errReq.toNat

/-- 60_exceptions.md R278, R279: after an exception in a command other than DECODE nothing but the status and RES has changed,
and for BUILD's PIXEL_RANGE the validity of the image. For ENCODE the premise is the invariant: in a state no run reaches a write
of its own may raise, and what it wrote before stays (log entry 15). -/
def Obligations.RaisedCommandsChangeNothingElse : Prop :=
  ∀ (i : Instr) (s t : State), i.isCommand = true → i ≠ .decode → (i = .encode → Inv s) → exec i s = .next t → t.err ≠ 0 →
    t = { s with err := t.err, errSub := t.errSub,
                 errReq := if t.err = 8 then t.errReq else s.errReq,
                 errAct := if t.err = 8 then t.errAct else s.errAct,
                 res := t.res, freeCtr := t.freeCtr, seq := .idle, tmp := StepVars.empty,
                 imgValid := if i = .build ∧ t.errSub = 7 then false else s.imgValid }

/-- 70_reset_and_hazards.md R303: each command as the first after reset, with any operands. -/
def Obligations.FirstCommandAfterReset : Prop :=
  ∀ a : Vector Word 6,
    (∃ t, exec .newcursor { State.reset with arg := a } = .next t ∧ t.err = 0 ∧ t.pos = 0) ∧
    (1 ≤ a[0].toNat → a[0].toNat ≤ 32 →
      ∃ t, exec .readbits { State.reset with arg := a } = .next t ∧ t.err = 3) ∧
    (∃ t, exec .readbyte { State.reset with arg := a } = .next t ∧ t.err = 3) ∧
    (1 ≤ a[1].toNat → a[1].toNat ≤ 32 → a[0].toNat < 2 ^ a[1].toNat →
      ∃ t, exec .writebits { State.reset with arg := a } = .next t ∧ t.err = 8 ∧
        t.errReq.toNat = (a[1].toNat + 7) / 8 ∧ t.errAct = 0) ∧
    (∀ i ∈ [Instr.color, .colorat, .bytecount],
      ∃ t, exec i { State.reset with arg := a } = .next t ∧ t.err = 15 ∧ t.errSub = 6) ∧
    (a[0].toNat ≤ 1 → ∃ t, exec .encode { State.reset with arg := a } = .next t ∧ t.err = 15 ∧ t.errSub = 6) ∧
    (∃ t, exec .decode { State.reset with arg := a } = .next t ∧ t.err = 3) ∧
    (BuildOperands { State.reset with arg := a } → a[4].toNat * a[5].toNat = 0 →
      ∃ t, exec .build { State.reset with arg := a } = .next t ∧ t.err = 0 ∧ t.imgValid = true)

/-! The BitCursor. -/

/-- 40_bitcursor.md R134. -/
def Obligations.NewcursorStartsAtBitZero : Prop :=
  ∀ s : State, exec .newcursor s = .next { s with err := 0, errSub := 0, pos := 0 }

/-- 40_bitcursor.md R131, with the bit order of 00_scope.md R9. -/
def Obligations.ReadbitsReturnsTheField : Prop :=
  ∀ s : State,
    (1 ≤ s.arg[0].toNat → s.arg[0].toNat ≤ 32 → s.pos + s.arg[0].toNat ≤ 8 * s.bufLen →
      ∃ t, exec .readbits s = .next t ∧
        (∀ i, i < s.arg[0].toNat → t.res[0].getLsbD (s.arg[0].toNat - 1 - i) =
          (bufByte s.buf ((s.pos + i) / 8)).getLsbD (7 - (s.pos + i) % 8)) ∧
        (∀ j, s.arg[0].toNat ≤ j → t.res[0].getLsbD j = false) ∧ OthersOfResKept s t ∧
        t = { s with err := 0, errSub := 0, pos := s.pos + s.arg[0].toNat, res := t.res }) ∧
    (s.arg[0].toNat < 1 ∨ 32 < s.arg[0].toNat → ∃ t, exec .readbits s = .next t ∧ RaisedOnly 15 3 s t) ∧
    (1 ≤ s.arg[0].toNat → s.arg[0].toNat ≤ 32 → 8 * s.bufLen < s.pos + s.arg[0].toNat →
      ∃ t, exec .readbits s = .next t ∧ RaisedOnly 3 0 s t)

/-- 40_bitcursor.md R132: R131 with `n = 8`. Where both raise, the last clause also says that RES is the same, which R131 leaves
unspecified: that is the model's choice, the free values of one counter (log entry 4). -/
def Obligations.ReadbyteIsReadbitsOfEight : Prop :=
  ∀ s : State,
    (s.pos + 8 ≤ 8 * s.bufLen → ∃ t, exec .readbyte s = .next t ∧
      (∀ i, i < 8 → t.res[0].getLsbD (7 - i) = bufBit s.buf (s.pos + i)) ∧
      (∀ j, 8 ≤ j → t.res[0].getLsbD j = false) ∧ OthersOfResKept s t ∧
      t = { s with err := 0, errSub := 0, pos := s.pos + 8, res := t.res }) ∧
    (8 * s.bufLen < s.pos + 8 → ∃ t, exec .readbyte s = .next t ∧ RaisedOnly 3 0 s t) ∧
    (∃ t, exec .readbyte s = .next t ∧ exec .readbits (s.withArg0 8) = .next (t.withArg0 8))

/-- 40_bitcursor.md R133: the bits of the field, every other bit of BUF kept, and its three exceptions in their order. The
sizes reported are those the registers hold (log entry 6). -/
def Obligations.WritebitsWritesTheField : Prop :=
  ∀ s : State,
    (1 ≤ s.arg[1].toNat → s.arg[1].toNat ≤ 32 → s.arg[0].toNat < 2 ^ s.arg[1].toNat →
      s.pos + s.arg[1].toNat ≤ 8 * s.bufLen → Memory.wf unlistedByte s.buf →
      ∃ t, exec .writebits s = .next t ∧
        (∀ p, bufBit t.buf p = if s.pos ≤ p ∧ p < s.pos + s.arg[1].toNat
          then s.arg[0].getLsbD (s.arg[1].toNat - 1 - (p - s.pos)) else bufBit s.buf p) ∧
        (∀ j, 8 * j + 8 ≤ s.pos ∨ s.pos + s.arg[1].toNat ≤ 8 * j → bufByte t.buf j = bufByte s.buf j) ∧
        t = { s with err := 0, errSub := 0, pos := s.pos + s.arg[1].toNat, buf := t.buf }) ∧
    (s.arg[1].toNat < 1 ∨ 32 < s.arg[1].toNat → ∃ t, exec .writebits s = .next t ∧ RaisedOnly 15 3 s t) ∧
    (1 ≤ s.arg[1].toNat → s.arg[1].toNat ≤ 32 → 2 ^ s.arg[1].toNat ≤ s.arg[0].toNat →
      ∃ t, exec .writebits s = .next t ∧ RaisedOnly 15 4 s t) ∧
    (1 ≤ s.arg[1].toNat → s.arg[1].toNat ≤ 32 → s.arg[0].toNat < 2 ^ s.arg[1].toNat →
      8 * s.bufLen < s.pos + s.arg[1].toNat →
      ∃ t, exec .writebits s = .next t ∧ RaisedTooSmall (ceil8 (s.pos + s.arg[1].toNat)) s.bufLen s t)

/-- 40_bitcursor.md R135: how reads and writes cut the bit string does not change it. -/
def Obligations.FieldsConcatenate : Prop :=
  (∀ (s : State) (n m : Nat), 1 ≤ n → 1 ≤ m → n + m ≤ 32 → s.pos + n + m ≤ 8 * s.bufLen →
    ∃ t u v, exec .readbits (s.withArg0 n) = .next t ∧ exec .readbits (t.withArg0 m) = .next u ∧
      exec .readbits (s.withArg0 (n + m)) = .next v ∧
      v.res[0] = t.res[0] <<< m ||| u.res[0] ∧ u = { v with arg := u.arg, res := u.res }) ∧
  (∀ (s : State) (a b n m : Nat), 1 ≤ n → 1 ≤ m → n + m ≤ 32 → a < 2 ^ n → b < 2 ^ m →
    s.pos + n + m ≤ 8 * s.bufLen →
    ∃ t u v, exec .writebits (s.withArg01 a n) = .next t ∧ exec .writebits (t.withArg01 b m) = .next u ∧
      exec .writebits (s.withArg01 (a <<< m ||| b) (n + m)) = .next v ∧ u = { v with arg := u.arg })

/-- 40_bitcursor.md R136: a value written and read back from the same position. -/
def Obligations.WrittenFieldReadsBack : Prop :=
  ∀ (s : State) (v n : Nat), Memory.wf unlistedByte s.buf → 1 ≤ n → n ≤ 32 → v < 2 ^ n → s.pos + n ≤ 8 * s.bufLen →
    ∃ t u, exec .writebits (s.withArg01 v n) = .next t ∧
      exec .readbits ({ t with pos := s.pos }.withArg0 n) = .next u ∧ u.res[0].toNat = v

/-! ModeFlags. -/

/-- 41_modeflags.md R150. -/
def Obligations.MfDecodeTakesTheByteApart : Prop :=
  ∀ s : State,
    (s.arg[0].toNat ≤ 255 → ∃ t, exec .mfDecode s = .next t ∧ AnsweredOnly s t ∧
      t.res[0].toNat = s.arg[0].toNat / 64 ∧ t.res[1].toNat = s.arg[0].toNat / 32 % 2 ∧
      t.res[2].toNat = s.arg[0].toNat / 2 % 4 ∧ t.res[3].toNat = s.arg[0].toNat % 2) ∧
    (255 < s.arg[0].toNat → ∃ t, exec .mfDecode s = .next t ∧ RaisedOnly 15 10 s t)

/-- 41_modeflags.md R151, the checks in ARG order. -/
def Obligations.MfEncodeJoinsTheFields : Prop :=
  ∀ s : State,
    (s.arg[0].toNat ≤ 2 → s.arg[1].toNat ≤ 1 → s.arg[2].toNat ≤ 2 → s.arg[3].toNat ≤ 1 →
      ∃ t, exec .mfEncode s = .next t ∧ AnsweredOnly s t ∧ OthersOfResKept s t ∧
        t.res[0].toNat = 64 * s.arg[0].toNat + 32 * s.arg[1].toNat + 2 * s.arg[2].toNat + s.arg[3].toNat) ∧
    (2 < s.arg[0].toNat → ∃ t, exec .mfEncode s = .next t ∧ RaisedOnly 15 1 s t) ∧
    (s.arg[0].toNat ≤ 2 → 1 < s.arg[1].toNat → ∃ t, exec .mfEncode s = .next t ∧ RaisedOnly 15 10 s t) ∧
    (s.arg[0].toNat ≤ 2 → s.arg[1].toNat ≤ 1 → 2 < s.arg[2].toNat →
      ∃ t, exec .mfEncode s = .next t ∧ RaisedOnly 15 2 s t) ∧
    (s.arg[0].toNat ≤ 2 → s.arg[1].toNat ≤ 1 → s.arg[2].toNat ≤ 2 → 1 < s.arg[3].toNat →
      ∃ t, exec .mfEncode s = .next t ∧ RaisedOnly 15 10 s t)

/-- 41_modeflags.md R152 and R153. -/
def Obligations.CountCommandsAnswerTheTables : Prop :=
  ∀ s : State,
    (s.arg[0].toNat ≤ 2 → ∃ t, exec .colorcountfor s = .next t ∧ AnsweredOnly s t ∧ OthersOfResKept s t ∧
      t.res[0].toNat = (if s.arg[0].toNat = 0 then 2 else if s.arg[0].toNat = 1 then 4 else 256)) ∧
    (2 < s.arg[0].toNat → ∃ t, exec .colorcountfor s = .next t ∧ RaisedOnly 15 1 s t) ∧
    (s.arg[0].toNat ≤ 2 → ∃ t, exec .channelcountfor s = .next t ∧ AnsweredOnly s t ∧ OthersOfResKept s t ∧
      t.res[0].toNat = (if s.arg[0].toNat = 0 then 1 else if s.arg[0].toNat = 1 then 3 else 4)) ∧
    (2 < s.arg[0].toNat → ∃ t, exec .channelcountfor s = .next t ∧ RaisedOnly 15 2 s t)

/-- 41_modeflags.md R156: MF_DECODE after MF_ENCODE gives the fields back; MF_ENCODE after MF_DECODE gives the byte with its
reserved bits cleared. -/
def Obligations.ModeByteRoundTrips : Prop :=
  (∀ s : State, s.arg[0].toNat ≤ 2 → s.arg[1].toNat ≤ 1 → s.arg[2].toNat ≤ 2 → s.arg[3].toNat ≤ 1 →
    ∃ t u, exec .mfEncode s = .next t ∧ exec .mfDecode { t with arg := t.arg.set 0 t.res[0] } = .next u ∧
      u.res = #v[s.arg[0], s.arg[1], s.arg[2], s.arg[3]]) ∧
  (∀ s : State, s.arg[0].toNat ≤ 255 → s.arg[0].toNat / 64 ≠ 3 → s.arg[0].toNat / 2 % 4 ≠ 3 →
    ∃ t u, exec .mfDecode s = .next t ∧
      exec .mfEncode { t with arg := #v[t.res[0], t.res[1], t.res[2], t.res[3], t.arg[4], t.arg[5]] } = .next u ∧
      u.res[0] = s.arg[0] &&& 0b11100111#32)

/-- 30_encoding.md R93 to R95: what each row of the mode byte does in DECODE's step 2. That these rows are instructions of their
own, and that DECODE's variables are in the state, is the model's choice (log entry 7). -/
def Obligations.ModeRowsSelectOrRaise : Prop :=
  ∀ s : State,
    exec .modeDepthOneBit s = .next { s with tmp := { s.tmp with d := .oneBit } } ∧
    exec .modeDepthTwoBit s = .next { s with tmp := { s.tmp with d := .twoBit } } ∧
    exec .modeDepthEightBit s = .next { s with tmp := { s.tmp with d := .eightBit } } ∧
    exec .modePaletteNo s = .next { s with tmp := { s.tmp with p := false } } ∧
    exec .modePaletteYes s = .next { s with tmp := { s.tmp with p := true } } ∧
    exec .modeLayoutGrayscale s = .next { s with tmp := { s.tmp with l := .grayscale } } ∧
    exec .modeLayoutRgb s = .next { s with tmp := { s.tmp with l := .rgb } } ∧
    exec .modeLayoutRgba s = .next { s with tmp := { s.tmp with l := .rgba } } ∧
    exec .modeAccuracyTwoBit s = .next { s with tmp := { s.tmp with acc := .twoBit } } ∧
    exec .modeAccuracyEightBit s = .next { s with tmp := { s.tmp with acc := .eightBit } } ∧
    (∀ rr, exec (.modeReserved43 rr) s = .next s) ∧
    (∃ t, exec .modeDepthReserved s = .next t ∧ RaisedOnly 5 0 s t) ∧
    (∃ t, exec .modeLayoutReserved s = .next t ∧ RaisedOnly 5 0 s t)

/-- DECODE's step 2 on a mode byte is the five rows the byte decodes to, one after the other, and either reserved pattern is
`DecodeError(INVALID_MODE)` (43_imagecodec_decode.md R202; log entry 7). -/
def Obligations.ModeByteRunsItsFiveRows : Prop :=
  ∀ (m : Byte) (s : State),
    (m.toNat / 64 ≠ 3 → m.toNat / 2 % 4 ≠ 3 → (takeModeByte m s).finish = runRows (decodeModeByte m) s) ∧
    (m.toNat / 64 = 3 ∨ m.toNat / 2 % 4 = 3 → ∃ t, (takeModeByte m s).finish = .next t ∧ RaisedOnly 5 0 s t)

/-! The palette. -/

/-- 42_palette.md R174. -/
def Obligations.QuantOneFollowsItsRule : Prop :=
  ∀ s : State,
    (ChannelOperands s → ∃ t, exec .quant1 s = .next t ∧ AnsweredOnly s t ∧ OthersOfResKept s t ∧
      t.res[0].toNat =
        (if (128 ≤ s.arg[0].toNat ∨ 128 ≤ s.arg[1].toNat ∨ 128 ≤ s.arg[2].toNat) ∧ 128 ≤ s.arg[3].toNat then 1 else 0)) ∧
    (¬ ChannelOperands s → ∃ t, exec .quant1 s = .next t ∧ RaisedOnly 15 10 s t)

/-- 42_palette.md R175. -/
def Obligations.QuantTwoFollowsItsRule : Prop :=
  ∀ s : State,
    (ChannelOperands s → ∃ t, exec .quant2 s = .next t ∧ AnsweredOnly s t ∧ OthersOfResKept s t ∧
      t.res[0].toNat = (if s.arg[3].toNat < 128 then 0 else
        s.arg[0].toNat / 64 ||| s.arg[1].toNat / 64 ||| s.arg[2].toNat / 64)) ∧
    (¬ ChannelOperands s → ∃ t, exec .quant2 s = .next t ∧ RaisedOnly 15 10 s t)

/-- 42_palette.md R176: the index is `a[7:6] || b[7:6] || g[7:6] || r[7:6]`. -/
def Obligations.QuantEightFollowsItsRule : Prop :=
  ∀ s : State,
    (ChannelOperands s → ∃ t, exec .quant8 s = .next t ∧ AnsweredOnly s t ∧ OthersOfResKept s t ∧
      t.res[0].toNat = s.arg[0].toNat / 64 + 4 * (s.arg[1].toNat / 64) + 16 * (s.arg[2].toNat / 64) +
        64 * (s.arg[3].toNat / 64)) ∧
    (¬ ChannelOperands s → ∃ t, exec .quant8 s = .next t ∧ RaisedOnly 15 10 s t)

/-- 42_palette.md R186: the index is a function of the four operands alone. -/
def Obligations.QuantizersReadOnlyTheirOperands : Prop :=
  ∀ i ∈ [Instr.quant1, .quant2, .quant8], ∀ s s' : State, ChannelOperands s →
    s'.arg[0] = s.arg[0] → s'.arg[1] = s.arg[1] → s'.arg[2] = s.arg[2] → s'.arg[3] = s.arg[3] →
    ∃ t t', exec i s = .next t ∧ exec i s' = .next t' ∧ t'.res[0] = t.res[0]

/-- 42_palette.md R177. -/
def Obligations.ColorLooksUpTheCurrentPalette : Prop :=
  ∀ s : State,
    (s.imgValid = true → ∃ t, exec .color s = .next t ∧ AnsweredOnly s t ∧
      (s.arg[0].toNat < colorCountFor s.depth → ResHolds (palEntry s.palram s.arg[0].toNat) t) ∧
      (colorCountFor s.depth ≤ s.arg[0].toNat → t.res = #v[0, 0, 0, 0])) ∧
    (s.imgValid = false → ∃ t, exec .color s = .next t ∧ RaisedOnly 15 6 s t)

/-- 42_palette.md R181, with the tables of R178, R179 and R180. -/
def Obligations.DefcolorLooksUpTheDefaultPalettes : Prop :=
  ∀ s : State,
    (s.arg[0].toNat ≤ 2 → ∃ t c, exec .defcolor s = .next t ∧ AnsweredOnly s t ∧ ResHolds c t ∧
      (s.arg[1].toNat < ccOf s.arg[0].toNat → IsDefaultColor s.arg[0].toNat s.arg[1].toNat c) ∧
      (ccOf s.arg[0].toNat ≤ s.arg[1].toNat → c.Is 0 0 0 0)) ∧
    (2 < s.arg[0].toNat → ∃ t, exec .defcolor s = .next t ∧ RaisedOnly 15 1 s t)

/-- 42_palette.md R182. -/
def Obligations.LoaddefpalCopiesTheDefaultPalette : Prop :=
  ∀ s : State,
    (s.arg[0].toNat ≤ 2 → Memory.wf unlistedColor s.palram → ∃ t, exec .loaddefpal s = .next t ∧
      (∀ i, i < ccOf s.arg[0].toNat → IsDefaultColor s.arg[0].toNat i (palEntry t.palram i)) ∧
      (∀ i, ccOf s.arg[0].toNat ≤ i → palEntry t.palram i = palEntry s.palram i) ∧
      t = { s with err := 0, errSub := 0, imgValid := false, palram := t.palram }) ∧
    (2 < s.arg[0].toNat → ∃ t, exec .loaddefpal s = .next t ∧ RaisedOnly 15 1 s t)

/-- 42_palette.md R185, first part: the default palettes quantize to their own indices. -/
def Obligations.DefaultPalettesQuantizeToTheirIndices : Prop :=
  ∀ (s : State) (d i : Nat), d ≤ 2 → i < ccOf d →
    ∃ t u, exec .defcolor (s.withArg01 d i) = .next t ∧
      exec (if d = 0 then .quant1 else if d = 1 then .quant2 else .quant8)
        { t with arg := #v[t.res[0], t.res[1], t.res[2], t.res[3], 0, 0] } = .next u ∧
      u.err = 0 ∧ u.res[0].toNat = i

/-- 42_palette.md R185, second part: `readEntry` after `writeEntry` (R183, R184). -/
def Obligations.PaletteEntryReadsBack : Prop :=
  ∀ (s : State) (c : Color) (l : ChannelLayout) (acc : ChannelAccuracy), Memory.wf unlistedByte s.buf →
    s.pos + channelCountFor l * bitsPerChannelFor acc ≤ 8 * s.bufLen →
    ∃ t u c', writeEntry c l acc s = .done () t ∧ readEntry l acc { t with pos := s.pos } = .done c' u ∧
      u.pos = t.pos ∧ IsReturnedColor l acc c c'

/-! DECODE and COLORAT. -/

/-- 43_imagecodec_decode.md R200 to R206 for a stream that is whole and well formed: the image registers and memories hold what
the stream's offsets (20_memory.md R69, with the padding R68 derives) give, and nothing else has changed. -/
def Obligations.DecodeBuildsTheStreamsImage : Prop :=
  ∀ s : State, Memory.wf unlistedColor s.palram → Memory.wf unlistedByte s.pixram → DecodeAccepts s.buf s.bufLen →
    ∃ t, exec .decode s = .next t ∧
      t.depth.code = streamDepth s.buf ∧ t.palEmb.toNat = streamPalette s.buf ∧ t.layout.code = streamLayout s.buf ∧
      t.acc.code = streamAccuracy s.buf ∧ t.width.toNat = streamWidth s.buf ∧ t.height.toNat = streamHeight s.buf ∧
      (∀ i, i < ccOf (streamDepth s.buf) → if streamPalette s.buf = 1 then IsStreamColor s.buf i (palEntry t.palram i)
        else IsDefaultColor (streamDepth s.buf) i (palEntry t.palram i)) ∧
      (∀ i, ccOf (streamDepth s.buf) ≤ i → palEntry t.palram i = palEntry s.palram i) ∧
      (∀ k, k < streamPixels s.buf → (pixEntry t.pixram k).toNat =
        memRead s.buf (streamP0 s.buf + k * bppOf (streamDepth s.buf)) (bppOf (streamDepth s.buf))) ∧
      (∀ k, streamPixels s.buf ≤ k → pixEntry t.pixram k = pixEntry s.pixram k) ∧
      t = { s with err := 0, errSub := 0, pos := streamEnd s.buf, depth := t.depth, palEmb := t.palEmb,
                   layout := t.layout, acc := t.acc, width := t.width, height := t.height, palram := t.palram,
                   pixram := t.pixram, imgValid := true, seq := .idle, tmp := StepVars.empty }

/-- DECODE succeeds on the streams it accepts and on no others (43_imagecodec_decode.md R201 to R205). -/
def Obligations.DecodeSucceedsExactlyOnWholeStreams : Prop :=
  ∀ s t : State, exec .decode s = .next t → (t.err = 0 ↔ DecodeAccepts s.buf s.bufLen)

/-- 43_imagecodec_decode.md R201: a short signature, and a wrong one. -/
def Obligations.DecodeRejectsTheSignature : Prop :=
  ∀ s : State,
    (s.bufLen < 7 → ∃ t, exec .decode s = .next t ∧ RaisedInDecode 3 0 s t) ∧
    (7 ≤ s.bufLen → ¬ HasSignature s.buf → ∃ t, exec .decode s = .next t ∧ RaisedInDecode 1 56 s t)

/-- 43_imagecodec_decode.md R202: a missing mode byte, and a reserved pattern, before the dimensions are looked at. -/
def Obligations.DecodeRejectsTheModeByte : Prop :=
  ∀ s : State, HasSignature s.buf →
    (s.bufLen = 7 → ∃ t, exec .decode s = .next t ∧ RaisedInDecode 2 56 s t) ∧
    (8 ≤ s.bufLen → streamDepth s.buf = 3 ∨ streamLayout s.buf = 3 →
      ∃ t, exec .decode s = .next t ∧ RaisedInDecode 5 64 s t)

/-- 43_imagecodec_decode.md R203: short dimensions. -/
def Obligations.DecodeRejectsShortDimensions : Prop :=
  ∀ s : State, HasSignature s.buf → streamDepth s.buf ≠ 3 → streamLayout s.buf ≠ 3 →
    (s.bufLen = 8 ∨ s.bufLen = 9 → ∃ t, exec .decode s = .next t ∧ RaisedInDecode 3 64 s t) ∧
    (s.bufLen = 10 → ∃ t, exec .decode s = .next t ∧ RaisedInDecode 3 76 s t)

/-- 43_imagecodec_decode.md R204: a short palette; POS is at the start of the channel that could not be read. -/
def Obligations.DecodeRejectsAShortPalette : Prop :=
  ∀ s : State, HasSignature s.buf → streamDepth s.buf ≠ 3 → streamLayout s.buf ≠ 3 → 11 ≤ s.bufLen →
    8 * s.bufLen < 88 + streamPaletteBits s.buf →
    ∃ t, exec .decode s = .next t ∧
      RaisedInDecode 3 (88 + (8 * s.bufLen - 88) / bpcOf (streamAccuracy s.buf) * bpcOf (streamAccuracy s.buf)) s t

/-- 43_imagecodec_decode.md R205: a short pixel plane, tested against the whole plane before the first pixel. -/
def Obligations.DecodeRejectsAShortPixelPlane : Prop :=
  ∀ s : State, HasSignature s.buf → streamDepth s.buf ≠ 3 → streamLayout s.buf ≠ 3 →
    streamP0 s.buf ≤ 8 * s.bufLen → 8 * s.bufLen < streamEnd s.buf →
    ∃ t, exec .decode s = .next t ∧ RaisedInDecode 4 (streamP0 s.buf) s t

/-- 60_exceptions.md R277, 43_imagecodec_decode.md R210: a DECODE that raised leaves no image and changes nothing else but POS
and the status. -/
def Obligations.FailedDecodeLeavesNoImage : Prop :=
  ∀ s t : State, exec .decode s = .next t → t.err ≠ 0 → t.err.toNat ≤ 5 ∧ RaisedInDecode t.err t.pos s t

/-- DECODE of an accepted stream does not depend on the reserved mode bits, on the padding bits or on what follows the pixel plane
(30_encoding.md R94, 20_memory.md R68, 43_imagecodec_decode.md R209). -/
def Obligations.DecodeIgnoresSpareBits : Prop :=
  ∀ (s t : State) (b : List Host.Cell), DecodeAccepts s.buf s.bufLen →
    (∀ p, p < streamEnd s.buf → p ≠ 59 → p ≠ 60 → ¬ (88 + streamPaletteBits s.buf ≤ p ∧ p < streamP0 s.buf) →
      bufBit b p = bufBit s.buf p) →
    exec .decode s = .next t → exec .decode { s with buf := b } = .next { t with buf := b }

/-- 43_imagecodec_decode.md R208, with the address of 20_memory.md R78. -/
def Obligations.ColoratResolvesThePixel : Prop :=
  ∀ s : State,
    (s.imgValid = true → s.arg[0].toNat < s.width.toNat → s.arg[1].toNat < s.height.toNat →
      ∃ t, exec .colorat s = .next t ∧ AnsweredOnly s t ∧
        ((pixEntry s.pixram (s.arg[1].toNat * s.width.toNat + s.arg[0].toNat)).toNat < colorCountFor s.depth →
          ResHolds (palEntry s.palram
            (pixEntry s.pixram (s.arg[1].toNat * s.width.toNat + s.arg[0].toNat)).toNat) t) ∧
        (colorCountFor s.depth ≤ (pixEntry s.pixram (s.arg[1].toNat * s.width.toNat + s.arg[0].toNat)).toNat →
          t.res = #v[0, 0, 0, 0])) ∧
    (s.imgValid = true → s.width.toNat ≤ s.arg[0].toNat ∨ s.height.toNat ≤ s.arg[1].toNat →
      ∃ t, exec .colorat s = .next t ∧ RaisedOnly 15 5 s t) ∧
    (s.imgValid = false → ∃ t, exec .colorat s = .next t ∧ RaisedOnly 15 6 s t)

/-! ENCODE, BYTECOUNT and BUILD. -/

/-- 44_imagecodec_encode.md R230 and R231. -/
def Obligations.BytecountIsTheSizeFormula : Prop :=
  ∀ s : State,
    (s.imgValid = true → ∃ t, exec .bytecount s = .next t ∧ AnsweredOnly s t ∧ OthersOfResKept s t ∧
      t.res[0].toNat = 7 + 1 + 3 +
        ((if s.palEmb then ccOf s.depth.code * chOf s.layout.code * bpcOf s.acc.code else 0) + 7) / 8 +
        (bppOf s.depth.code * (s.width.toNat * s.height.toNat) + 7) / 8) ∧
    (s.imgValid = false → ∃ t, exec .bytecount s = .next t ∧ RaisedOnly 15 6 s t)

/-- 44_imagecodec_encode.md R232: the bounds of the sizes, and that they are reached. -/
def Obligations.SizesAreBounded : Prop :=
  (∀ s : State, s.paletteBits ≤ 8192 ∧ s.pixelBits ≤ 134152200 ∧ 11 ≤ s.byteCount ∧ s.byteCount ≤ 16770060) ∧
  (∃ s : State, s.byteCount = 11) ∧ (∃ s : State, s.byteCount = 16770060)

/-- 44_imagecodec_encode.md R233 and R234, 60_exceptions.md R278: the checks of ENCODE in their order, each leaving everything
but the status as it was. -/
def Obligations.EncodeChecksBeforeItWrites : Prop :=
  ∀ s : State,
    (1 < s.arg[0].toNat → ∃ t, exec .encode s = .next t ∧ RaisedOnly 15 10 s t) ∧
    (s.arg[0].toNat ≤ 1 → s.imgValid = false → ∃ t, exec .encode s = .next t ∧ RaisedOnly 15 6 s t) ∧
    (s.arg[0].toNat = 1 → s.imgValid = true → s.bufLen < s.byteCount →
      ∃ t, exec .encode s = .next t ∧ RaisedTooSmall s.byteCount s.bufLen s t) ∧
    (s.arg[0].toNat = 0 → s.imgValid = true → s.bufMax < s.byteCount →
      ∃ t, exec .encode s = .next t ∧ RaisedTooSmall s.byteCount s.bufMax s t)

/-- 44_imagecodec_encode.md R238 and R239: once its checks have passed ENCODE completes, with the result of R238 and nothing
else changed. That a byte at or above BUF_LEN keeps its value is the model's choice (log entry 13). -/
def Obligations.EncodeCompletesOnceChecked : Prop :=
  ∀ s : State, Inv s → EncodeAccepts s →
    ∃ t, exec .encode s = .next t ∧ t.res[0].toNat = s.byteCount ∧ OthersOfResKept s t ∧
      (∀ j, s.byteCount ≤ j → bufByte t.buf j = bufByte s.buf j) ∧
      t = { s with err := 0, errSub := 0, buf := t.buf, bufLen := if s.arg[0].toNat = 1 then s.bufLen else s.byteCount,
                   pos := 8 * s.byteCount, outLen := s.byteCount, res := t.res }

/-- 44_imagecodec_encode.md R235 to R237: what ENCODE writes. -/
def Obligations.EncodeWritesTheStream : Prop :=
  ∀ s : State, Inv s → EncodeAccepts s → ∃ t, exec .encode s = .next t ∧ HoldsEncoding s t.buf

/-- 44_imagecodec_encode.md R240: DECODE of what ENCODE wrote gives the image back; the palette up to what an embedded one
stores, or the default one. -/
def Obligations.DecodeUndoesEncode : Prop :=
  ∀ s : State, Inv s → EncodeAccepts s →
    ∃ t u, exec .encode s = .next t ∧ exec .decode t = .next u ∧ u.err = 0 ∧ u.imgValid = true ∧
      u.depth = s.depth ∧ u.palEmb = s.palEmb ∧ u.layout = s.layout ∧ u.acc = s.acc ∧
      u.width = s.width ∧ u.height = s.height ∧
      (∀ k, k < s.pixelCount → pixEntry u.pixram k = pixEntry s.pixram k) ∧
      (∀ i, i < colorCountFor s.depth →
        if s.palEmb then IsReturnedColor s.layout s.acc (palEntry s.palram i) (palEntry u.palram i)
        else IsDefaultColor s.depth.code i (palEntry u.palram i))

/-- 44_imagecodec_encode.md R240, the other direction: ENCODE of a decoded stream reproduces its bytes exactly when its reserved
and padding bits were zero. -/
def Obligations.EncodeUndoesDecode : Prop :=
  ∀ s : State, Inv s → DecodeAccepts s.buf s.bufLen →
    ∃ t u, exec .decode s = .next t ∧ exec .encode (t.withArg0 1) = .next u ∧ u.err = 0 ∧
      u.outLen = ceil8 (streamEnd s.buf) ∧
      ((∀ j, j < u.outLen → bufByte u.buf j = bufByte s.buf j) ↔ SpareBitsZero s.buf)

/-- 45_host_system.md R250: the six checks in ARG order, the pixel check, and the image. -/
def Obligations.BuildMakesACheckedImage : Prop :=
  ∀ s : State,
    (BuildOperands s →
      (∀ k, k < s.arg[4].toNat * s.arg[5].toNat → (pixEntry s.pixram k).toNat < ccOf s.arg[0].toNat) →
      ∃ t, exec .build s = .next t ∧
        t.depth.code = s.arg[0].toNat ∧ t.palEmb.toNat = s.arg[1].toNat ∧ t.layout.code = s.arg[2].toNat ∧
        t.acc.code = s.arg[3].toNat ∧ t.width.toNat = s.arg[4].toNat ∧ t.height.toNat = s.arg[5].toNat ∧
        t = { s with err := 0, errSub := 0, depth := t.depth, palEmb := t.palEmb, layout := t.layout, acc := t.acc,
                     width := t.width, height := t.height, imgValid := true }) ∧
    (BuildOperands s →
      (∃ k, k < s.arg[4].toNat * s.arg[5].toNat ∧ ccOf s.arg[0].toNat ≤ (pixEntry s.pixram k).toNat) →
      ∃ t, exec .build s = .next t ∧ RaisedOnly 15 7 { s with imgValid := false } t) ∧
    (2 < s.arg[0].toNat → ∃ t, exec .build s = .next t ∧ RaisedOnly 15 1 s t) ∧
    (s.arg[0].toNat ≤ 2 → 1 < s.arg[1].toNat → ∃ t, exec .build s = .next t ∧ RaisedOnly 15 10 s t) ∧
    (s.arg[0].toNat ≤ 2 → s.arg[1].toNat ≤ 1 → 2 < s.arg[2].toNat →
      ∃ t, exec .build s = .next t ∧ RaisedOnly 15 2 s t) ∧
    (s.arg[0].toNat ≤ 2 → s.arg[1].toNat ≤ 1 → s.arg[2].toNat ≤ 2 → 1 < s.arg[3].toNat →
      ∃ t, exec .build s = .next t ∧ RaisedOnly 15 10 s t) ∧
    (s.arg[0].toNat ≤ 2 → s.arg[1].toNat ≤ 1 → s.arg[2].toNat ≤ 2 → s.arg[3].toNat ≤ 1 →
      4095 < s.arg[4].toNat ∨ 4095 < s.arg[5].toNat → ∃ t, exec .build s = .next t ∧ RaisedOnly 15 8 s t)

/-! What the host reads of BUF. -/

/-- 10_state.md R21 and 45_host_system.md R251: the host reads the bytes of BUF below BUF_LEN, and a byte at or above it does not
exist. That such a read stops is the model's choice (log entry 12). -/
def Obligations.HostReadsBufBelowItsLength : Prop :=
  ∀ (s : State) (j : Nat) (rest : List PortAction), s.script = .read (.buf j) :: rest →
    (j < s.bufLen → portRead (.buf j) s = .ok (bufByte s.buf j).toNat ∧ step s = .next { s with script := rest }) ∧
    (s.bufLen ≤ j → step s = .fault (.noSuchBufByte j))
end

