-- ==== Sys2Proof/Laws/Memory.lean ====
section
/-! SUPPORT. The laws of the memories: read after write, the canonical form and the bounds every write keeps, and the bits of
BUF under a bit write and a field write. -/

namespace Sys2Proof.Machine

variable {α : Type}

/-! Entries. -/

theorem Memory.read_of_forall_ne {d : α} {m : List (Nat × α)} {a : Nat} (h : ∀ c ∈ m, c.1 ≠ a) :
    Memory.read d m a = d := by
  induction m with
  | nil => rfl
  | cons c rest ih =>
    have hc : a ≠ c.1 := fun e => h c (by simp) e.symm
    obtain ⟨b, w⟩ := c
    simp only [Memory.read]
    rw [if_neg hc]
    exact ih fun c hc' => h c (by simp [hc'])

/-- What a memory list holds: a listed address reads its entry. -/
theorem Memory.read_of_mem {d : α} {m : List (Nat × α)} (h : m.Pairwise (fun x y => x.1 < y.1)) {a : Nat} {v : α}
    (hm : (a, v) ∈ m) : Memory.read d m a = v := by
  induction m with
  | nil => simp at hm
  | cons c rest ih =>
    obtain ⟨b, w⟩ := c
    rw [List.pairwise_cons] at h
    simp only [Memory.read]
    rcases List.mem_cons.1 hm with e | hm
    · simp only [Prod.mk.injEq] at e
      rw [if_pos e.1, e.2]
    · have := h.1 _ hm
      rw [if_neg (by simp at this; omega)]
      exact ih h.2 hm

variable [DecidableEq α]

/-- The addresses a write leaves listed are old ones, or the one written. -/
theorem Memory.mem_write {d : α} {a : Nat} {v : α} {m : List (Nat × α)} {c : Nat × α}
    (h : c ∈ Memory.write d a v m) : c ∈ m ∨ (c = (a, v) ∧ v ≠ d) := by
  induction m with
  | nil =>
    simp only [Memory.write] at h
    split at h
    · simp at h
    · exact .inr ⟨by simpa using h, ‹_›⟩
  | cons x rest ih =>
    obtain ⟨b, w⟩ := x
    simp only [Memory.write] at h
    split at h
    · split at h
      · exact .inl h
      · rcases List.mem_cons.1 h with e | h
        · exact .inr ⟨e, ‹_›⟩
        · exact .inl h
    · split at h
      · split at h
        · exact .inl (List.mem_cons_of_mem _ h)
        · rcases List.mem_cons.1 h with e | h
          · exact .inr ⟨e, ‹_›⟩
          · exact .inl (List.mem_cons_of_mem _ h)
      · rcases List.mem_cons.1 h with e | h
        · exact .inl (by simp [e])
        · exact (ih h).imp (List.mem_cons_of_mem _) id

/-- A write leaves every other entry alone. -/
theorem Memory.read_write_ne {d : α} {a b : Nat} {v : α} {m : List (Nat × α)} (hab : b ≠ a) :
    Memory.read d (Memory.write d a v m) b = Memory.read d m b := by
  induction m with
  | nil =>
    simp only [Memory.write]
    split
    · rfl
    · simp [Memory.read, hab]
  | cons x rest ih =>
    obtain ⟨c, w⟩ := x
    simp only [Memory.write]
    split
    · split
      · rfl
      · simp [Memory.read, hab]
    · split
      · rename_i h1 h2
        subst h2
        split <;> simp [Memory.read, hab]
      · simp only [Memory.read]
        rw [ih]

/-- A read after a write to the same entry gives the value written. -/
theorem Memory.read_write_same {d : α} {a : Nat} {v : α} {m : List (Nat × α)}
    (h : m.Pairwise (fun x y => x.1 < y.1)) : Memory.read d (Memory.write d a v m) a = v := by
  induction m with
  | nil =>
    simp only [Memory.write]
    split
    · simp_all [Memory.read]
    · simp [Memory.read]
  | cons x rest ih =>
    obtain ⟨b, w⟩ := x
    rw [List.pairwise_cons] at h
    have hrest : ∀ c ∈ rest, b < c.1 := fun c hc => h.1 c hc
    simp only [Memory.write]
    split
    · rename_i hab
      split
      · rename_i hv
        rw [hv]
        refine Memory.read_of_forall_ne fun c hc => ?_
        rcases List.mem_cons.1 hc with e | hc
        · simp only [e]; omega
        · have := hrest c hc; omega
      · simp [Memory.read]
    · split
      · rename_i hab
        subst hab
        split
        · rename_i hv
          rw [hv]
          refine Memory.read_of_forall_ne fun c hc => ?_
          have := hrest c hc; omega
        · simp [Memory.read]
      · rename_i h1 h2
        simp only [Memory.read]
        rw [if_neg h2]
        exact ih h.2

/-- Every write keeps the canonical form. -/
theorem Memory.wf_write {d : α} {a : Nat} {v : α} {m : List (Nat × α)} (h : Memory.wf d m) :
    Memory.wf d (Memory.write d a v m) := by
  refine ⟨?_, fun c hc => ?_⟩
  · have hp := h.1
    clear h
    induction m with
    | nil =>
      simp only [Memory.write]
      split <;> simp
    | cons x rest ih =>
      obtain ⟨b, w⟩ := x
      have hp' := hp
      rw [List.pairwise_cons] at hp
      have hrest : ∀ c ∈ rest, b < c.1 := fun c hc => hp.1 c hc
      simp only [Memory.write]
      split
      · rename_i hab
        split
        · exact hp'
        · refine List.pairwise_cons.2 ⟨fun c hc => ?_, hp'⟩
          rcases List.mem_cons.1 hc with e | hc
          · simp only [e]; omega
          · have := hrest c hc; simp only; omega
      · split
        · rename_i hab
          subst hab
          split
          · exact hp.2
          · exact List.pairwise_cons.2 ⟨fun c hc => hrest c hc, hp.2⟩
        · refine List.pairwise_cons.2 ⟨fun c hc => ?_, ih hp.2⟩
          rcases Memory.mem_write hc with hc | ⟨e, -⟩
          · exact hrest c hc
          · simp only [e]; omega
  · rcases Memory.mem_write hc with hc | ⟨e, hv⟩
    · exact h.2 c hc
    · simpa [e] using hv

/-- A write below a bound keeps every listed address below it. -/
theorem Memory.below_write {d : α} {a n : Nat} {v : α} {m : List (Nat × α)} (h : Memory.below n m) (ha : a < n) :
    Memory.below n (Memory.write d a v m) := by
  intro c hc
  rcases Memory.mem_write hc with hc | ⟨e, -⟩
  · exact h c hc
  · simpa [e] using ha

theorem Memory.wf_writeAll {d : α} (vs : List α) : ∀ {a : Nat} {m : List (Nat × α)}, Memory.wf d m →
    Memory.wf d (Memory.writeAll d a vs m) := by
  induction vs with
  | nil => exact fun h => h
  | cons v vs ih => exact fun h => ih (Memory.wf_write h)

theorem Memory.below_writeAll {d : α} {n : Nat} (vs : List α) : ∀ {a : Nat} {m : List (Nat × α)}, Memory.below n m →
    a + vs.length ≤ n → Memory.below n (Memory.writeAll d a vs m) := by
  induction vs with
  | nil => exact fun h _ => h
  | cons v vs ih =>
    intro a m h ha
    simp only [List.length_cons] at ha
    exact ih (Memory.below_write h (by omega)) (by omega)

/-- Writing values from `a` on: those entries read the values, every other is as before. -/
theorem Memory.read_writeAll {d : α} (vs : List α) : ∀ {a b : Nat} {m : List (Nat × α)}, Memory.wf d m →
    Memory.read d (Memory.writeAll d a vs m) b =
      if a ≤ b then (vs[b - a]?).getD (Memory.read d m b) else Memory.read d m b := by
  induction vs with
  | nil => intro a b m _; simp [Memory.writeAll]
  | cons v vs ih =>
    intro a b m h
    simp only [Memory.writeAll]
    rw [ih (Memory.wf_write h)]
    rcases Nat.lt_trichotomy b a with hb | hb | hb
    · rw [if_neg (by omega), if_neg (by omega), Memory.read_write_ne (by omega)]
    · subst hb
      rw [if_neg (by omega), Memory.read_write_same h.1]
      simp
    · rw [if_pos (by omega), if_pos (by omega), Memory.read_write_ne (by omega)]
      have : b - a = (b - (a + 1)) + 1 := by omega
      rw [this, List.getElem?_cons_succ]

/-! Bytes and bits of BUF. -/

/-- The bits of a byte with one bit made `b`. -/
theorem withBit_getLsbD (x : Byte) (k j : Nat) (b : Bool) (hk : k < 8) :
    (withBit x k b).getLsbD j = if j = k then b else x.getLsbD j := by
  simp only [withBit]
  by_cases hj : j < 8
  · have : ∀ (b : Bool) (k j : Fin 8) (x : Byte),
        (if b then x ||| (1#8 <<< k.val) else x &&& ~~~(1#8 <<< k.val)).getLsbD j.val =
          if j.val = k.val then b else x.getLsbD j.val := by
      intro b k j x
      by_cases hjk : j.val = k.val
      · cases b <;> simp [hjk]
      · cases b <;> simp [hjk] <;> intro _ <;> omega
    exact this b ⟨k, hk⟩ ⟨j, hj⟩ x
  · rw [BitVec.getLsbD_of_ge _ _ (by omega), BitVec.getLsbD_of_ge _ _ (by omega), if_neg (by omega)]

/-- A bit write leaves the other bytes alone. -/
theorem bufByte_setBufBit_ne {m : List Host.Cell} {p j : Nat} {b : Bool} (h : j ≠ p / 8) :
    bufByte (setBufBit m p b) j = bufByte m j := Memory.read_write_ne h

/-- A bit write sets its bit and leaves every other bit of BUF. -/
theorem bufBit_setBufBit {m : List Host.Cell} (h : Memory.wf unlistedByte m) (p q : Nat) (b : Bool) :
    bufBit (setBufBit m p b) q = if q = p then b else bufBit m q := by
  by_cases hj : q / 8 = p / 8
  · have hr : bufByte (setBufBit m p b) (q / 8) = withBit (bufByte m (p / 8)) (7 - p % 8) b := by
      rw [hj]; exact Memory.read_write_same h.1
    rw [bufBit, hr, withBit_getLsbD _ _ _ _ (by omega)]
    by_cases hq : q = p
    · simp [hq]
    · rw [if_neg (by omega), if_neg hq, bufBit, hj]
  · rw [bufBit, bufByte_setBufBit_ne hj, if_neg (fun e => hj (by rw [e])), bufBit]

theorem wf_setBufBit {m : List Host.Cell} {p : Nat} {b : Bool} (h : Memory.wf unlistedByte m) :
    Memory.wf unlistedByte (setBufBit m p b) := Memory.wf_write h

theorem below_setBufBit {m : List Host.Cell} {p n : Nat} {b : Bool} (h : Memory.below n m) (hp : p < 8 * n) :
    Memory.below n (setBufBit m p b) := Memory.below_write h (by omega)

/-- A field write keeps the canonical form. -/
theorem wf_memWrite (v n : Nat) : ∀ {m : List Host.Cell} {p : Nat}, Memory.wf unlistedByte m →
    Memory.wf unlistedByte (memWrite m p v n) := by
  induction n with
  | zero => exact fun h => h
  | succ n ih => exact fun h => ih (wf_setBufBit h)

/-- A field write within the capacity keeps every listed address in it. -/
theorem below_memWrite (v n : Nat) {c : Nat} : ∀ {m : List Host.Cell} {p : Nat}, Memory.below c m → p + n ≤ 8 * c →
    Memory.below c (memWrite m p v n) := by
  induction n with
  | zero => exact fun h _ => h
  | succ n ih => exact fun h hp => ih (below_setBufBit h (by omega)) (by omega)

/-- A field write, bit by bit: the bits of its field, first bit most significant, and no other (00_scope.md R11). -/
theorem bufBit_memWrite (v n : Nat) : ∀ {m : List Host.Cell} {p : Nat}, Memory.wf unlistedByte m → ∀ q,
    bufBit (memWrite m p v n) q = if p ≤ q ∧ q < p + n then v.testBit (n - 1 - (q - p)) else bufBit m q := by
  induction n with
  | zero =>
    intro m p h q
    rw [if_neg (by omega)]; rfl
  | succ n ih =>
    intro m p h q
    rw [memWrite, ih (wf_setBufBit h), bufBit_setBufBit h]
    by_cases hq : p + 1 ≤ q ∧ q < p + 1 + n
    · rw [if_pos hq, if_pos (by omega)]
      congr 1; omega
    · rw [if_neg hq]
      by_cases hp : q = p
      · rw [if_pos hp, if_pos (by omega)]
        congr 1; omega
      · rw [if_neg hp, if_neg (by omega)]

/-- A field write leaves the bytes it does not reach alone. -/
theorem bufByte_memWrite (v n : Nat) {j : Nat} : ∀ {m : List Host.Cell} {p : Nat}, 8 * j + 8 ≤ p ∨ p + n ≤ 8 * j →
    bufByte (memWrite m p v n) j = bufByte m j := by
  induction n with
  | zero => intro m p _; rfl
  | succ n ih =>
    intro m p h
    rw [memWrite, ih (by omega), bufByte_setBufBit_ne (by omega)]

/-- A field of `n` bits is below `2^n`. -/
theorem memRead_lt (m : List Host.Cell) (n : Nat) : ∀ p, memRead m p n < 2 ^ n := by
  induction n with
  | zero => intro p; simp [memRead]
  | succ n ih =>
    intro p
    have h1 := ih (p + 1)
    have h2 : (bufBit m p).toNat <<< n ≤ 2 ^ n := by
      cases bufBit m p <;> simp [Nat.shiftLeft_eq]
    rw [memRead, Nat.pow_succ]; omega

/-- The bits of a field: bit `j` is the bit of BUF `n - 1 - j` places from its start (00_scope.md R11). -/
theorem testBit_memRead (m : List Host.Cell) (n : Nat) : ∀ p j,
    (memRead m p n).testBit j = (decide (j < n) && bufBit m (p + (n - 1 - j))) := by
  induction n with
  | zero => intro p j; simp [memRead]
  | succ n ih =>
    intro p j
    have hlt := memRead_lt m n (p + 1)
    have hadd : (bufBit m p).toNat <<< n + memRead m (p + 1) n = 2 ^ n * (bufBit m p).toNat + memRead m (p + 1) n := by
      rw [Nat.shiftLeft_eq, Nat.mul_comm]
    rw [memRead, hadd, Nat.testBit_two_pow_mul_add _ hlt]
    by_cases hj : j < n
    · rw [if_pos hj, ih]
      have h1 : p + 1 + (n - 1 - j) = p + (n + 1 - 1 - j) := by omega
      simp [hj, h1, show j < n + 1 by omega]
    · rw [if_neg hj]
      by_cases hjn : j = n
      · subst hjn
        cases hb : bufBit m p <;> simp [hb]
      · have : j - n = (j - n - 1) + 1 := by omega
        rw [this]
        cases bufBit m p <;> simp [show ¬ j < n + 1 by omega, Nat.testBit_succ]

/-- Two buffers that agree on the bits of a field hold the same field. -/
theorem memRead_congr {m m' : List Host.Cell} {p n : Nat} (h : ∀ q, p ≤ q → q < p + n → bufBit m q = bufBit m' q) :
    memRead m p n = memRead m' p n := by
  refine Nat.eq_of_testBit_eq fun j => ?_
  rw [testBit_memRead, testBit_memRead]
  by_cases hj : j < n
  · rw [h _ (by omega) (by omega)]
  · simp [hj]

/-- A whole byte of BUF as a field. -/
theorem memRead_byte (m : List Host.Cell) (j : Nat) : memRead m (8 * j) 8 = (bufByte m j).toNat := by
  refine Nat.eq_of_testBit_eq fun i => ?_
  rw [testBit_memRead]
  by_cases hi : i < 8
  · have h1 : (8 * j + (8 - 1 - i)) / 8 = j := by omega
    have h2 : 7 - (8 * j + (8 - 1 - i)) % 8 = i := by omega
    rw [bufBit, h1, h2]
    simp [hi, BitVec.getLsbD]
  · have : (bufByte m j).getLsbD i = false := BitVec.getLsbD_of_ge _ _ (by omega)
    simp only [BitVec.getLsbD] at this
    simp [hi, this]

/-- Two bytes of BUF with the same bits are the same. -/
theorem bufByte_ext {m m' : List Host.Cell} {j : Nat} (h : ∀ q, 8 * j ≤ q → q < 8 * j + 8 → bufBit m q = bufBit m' q) :
    bufByte m j = bufByte m' j :=
  BitVec.eq_of_toNat_eq (by rw [← memRead_byte, ← memRead_byte]; exact memRead_congr h)

/-- A field read where one was just written is its value, as far as it fits. -/
theorem memRead_memWrite {m : List Host.Cell} (h : Memory.wf unlistedByte m) (p v n : Nat) :
    memRead (memWrite m p v n) p n = v % 2 ^ n := by
  refine Nat.eq_of_testBit_eq fun j => ?_
  rw [testBit_memRead, Nat.testBit_mod_two_pow, bufBit_memWrite v n h]
  by_cases hj : j < n
  · rw [if_pos (by omega)]
    have : n - 1 - (p + (n - 1 - j) - p) = j := by omega
    rw [this]
  · simp [hj]

/-- A field is its first bits and its last bits (20_memory.md R62). -/
theorem memRead_add (m : List Host.Cell) (p a b : Nat) :
    memRead m p (a + b) = memRead m p a <<< b + memRead m (p + a) b := by
  induction a generalizing p with
  | zero => simp [memRead]
  | succ a ih =>
    have h1 : a + 1 + b = (a + b) + 1 := by omega
    have h2 : p + 1 + a = p + (a + 1) := by omega
    rw [h1, memRead, memRead, ih, h2]
    simp only [Nat.shiftLeft_eq, Nat.add_mul, Nat.pow_add]
    ring

end Sys2Proof.Machine
end

