-- ==== Sys2Proof/Laws/State.lean ====
section
/-! SUPPORT. What each shared update of the state does to each field, one lemma a field, so that no proof unfolds one. -/

namespace Sys2Proof.Machine

/-! `State.begin`. -/

@[simp] theorem State.begin_buf (s : State) : (s.begin).buf = s.buf := rfl
@[simp] theorem State.begin_bufLen (s : State) : (s.begin).bufLen = s.bufLen := rfl
@[simp] theorem State.begin_pos (s : State) : (s.begin).pos = s.pos := rfl
@[simp] theorem State.begin_depth (s : State) : (s.begin).depth = s.depth := rfl
@[simp] theorem State.begin_palEmb (s : State) : (s.begin).palEmb = s.palEmb := rfl
@[simp] theorem State.begin_layout (s : State) : (s.begin).layout = s.layout := rfl
@[simp] theorem State.begin_acc (s : State) : (s.begin).acc = s.acc := rfl
@[simp] theorem State.begin_width (s : State) : (s.begin).width = s.width := rfl
@[simp] theorem State.begin_height (s : State) : (s.begin).height = s.height := rfl
@[simp] theorem State.begin_palram (s : State) : (s.begin).palram = s.palram := rfl
@[simp] theorem State.begin_pixram (s : State) : (s.begin).pixram = s.pixram := rfl
@[simp] theorem State.begin_imgValid (s : State) : (s.begin).imgValid = s.imgValid := rfl
@[simp] theorem State.begin_cmd (s : State) : (s.begin).cmd = s.cmd := rfl
@[simp] theorem State.begin_arg (s : State) : (s.begin).arg = s.arg := rfl
@[simp] theorem State.begin_res (s : State) : (s.begin).res = s.res := rfl
@[simp] theorem State.begin_err (s : State) : (s.begin).err = 0 := rfl
@[simp] theorem State.begin_errSub (s : State) : (s.begin).errSub = 0 := rfl
@[simp] theorem State.begin_errReq (s : State) : (s.begin).errReq = s.errReq := rfl
@[simp] theorem State.begin_errAct (s : State) : (s.begin).errAct = s.errAct := rfl
@[simp] theorem State.begin_outLen (s : State) : (s.begin).outLen = s.outLen := rfl
@[simp] theorem State.begin_seq (s : State) : (s.begin).seq = s.seq := rfl
@[simp] theorem State.begin_tmp (s : State) : (s.begin).tmp = s.tmp := rfl
@[simp] theorem State.begin_bufMax (s : State) : (s.begin).bufMax = s.bufMax := rfl
@[simp] theorem State.begin_script (s : State) : (s.begin).script = s.script := rfl
@[simp] theorem State.begin_freeCtr (s : State) : (s.begin).freeCtr = s.freeCtr := rfl

/-! `State.setRes0`. -/

@[simp] theorem State.setRes0_buf (v : Word) (s : State) : (s.setRes0 v).buf = s.buf := rfl
@[simp] theorem State.setRes0_bufLen (v : Word) (s : State) : (s.setRes0 v).bufLen = s.bufLen := rfl
@[simp] theorem State.setRes0_pos (v : Word) (s : State) : (s.setRes0 v).pos = s.pos := rfl
@[simp] theorem State.setRes0_depth (v : Word) (s : State) : (s.setRes0 v).depth = s.depth := rfl
@[simp] theorem State.setRes0_palEmb (v : Word) (s : State) : (s.setRes0 v).palEmb = s.palEmb := rfl
@[simp] theorem State.setRes0_layout (v : Word) (s : State) : (s.setRes0 v).layout = s.layout := rfl
@[simp] theorem State.setRes0_acc (v : Word) (s : State) : (s.setRes0 v).acc = s.acc := rfl
@[simp] theorem State.setRes0_width (v : Word) (s : State) : (s.setRes0 v).width = s.width := rfl
@[simp] theorem State.setRes0_height (v : Word) (s : State) : (s.setRes0 v).height = s.height := rfl
@[simp] theorem State.setRes0_palram (v : Word) (s : State) : (s.setRes0 v).palram = s.palram := rfl
@[simp] theorem State.setRes0_pixram (v : Word) (s : State) : (s.setRes0 v).pixram = s.pixram := rfl
@[simp] theorem State.setRes0_imgValid (v : Word) (s : State) : (s.setRes0 v).imgValid = s.imgValid := rfl
@[simp] theorem State.setRes0_cmd (v : Word) (s : State) : (s.setRes0 v).cmd = s.cmd := rfl
@[simp] theorem State.setRes0_arg (v : Word) (s : State) : (s.setRes0 v).arg = s.arg := rfl
@[simp] theorem State.setRes0_res (v : Word) (s : State) : (s.setRes0 v).res = s.res.set 0 v := rfl
@[simp] theorem State.setRes0_err (v : Word) (s : State) : (s.setRes0 v).err = s.err := rfl
@[simp] theorem State.setRes0_errSub (v : Word) (s : State) : (s.setRes0 v).errSub = s.errSub := rfl
@[simp] theorem State.setRes0_errReq (v : Word) (s : State) : (s.setRes0 v).errReq = s.errReq := rfl
@[simp] theorem State.setRes0_errAct (v : Word) (s : State) : (s.setRes0 v).errAct = s.errAct := rfl
@[simp] theorem State.setRes0_outLen (v : Word) (s : State) : (s.setRes0 v).outLen = s.outLen := rfl
@[simp] theorem State.setRes0_seq (v : Word) (s : State) : (s.setRes0 v).seq = s.seq := rfl
@[simp] theorem State.setRes0_tmp (v : Word) (s : State) : (s.setRes0 v).tmp = s.tmp := rfl
@[simp] theorem State.setRes0_bufMax (v : Word) (s : State) : (s.setRes0 v).bufMax = s.bufMax := rfl
@[simp] theorem State.setRes0_script (v : Word) (s : State) : (s.setRes0 v).script = s.script := rfl
@[simp] theorem State.setRes0_freeCtr (v : Word) (s : State) : (s.setRes0 v).freeCtr = s.freeCtr := rfl

/-! `State.setRes4`. -/

@[simp] theorem State.setRes4_buf (v0 v1 v2 v3 : Word) (s : State) : (s.setRes4 v0 v1 v2 v3).buf = s.buf := rfl
@[simp] theorem State.setRes4_bufLen (v0 v1 v2 v3 : Word) (s : State) : (s.setRes4 v0 v1 v2 v3).bufLen = s.bufLen := rfl
@[simp] theorem State.setRes4_pos (v0 v1 v2 v3 : Word) (s : State) : (s.setRes4 v0 v1 v2 v3).pos = s.pos := rfl
@[simp] theorem State.setRes4_depth (v0 v1 v2 v3 : Word) (s : State) : (s.setRes4 v0 v1 v2 v3).depth = s.depth := rfl
@[simp] theorem State.setRes4_palEmb (v0 v1 v2 v3 : Word) (s : State) : (s.setRes4 v0 v1 v2 v3).palEmb = s.palEmb := rfl
@[simp] theorem State.setRes4_layout (v0 v1 v2 v3 : Word) (s : State) : (s.setRes4 v0 v1 v2 v3).layout = s.layout := rfl
@[simp] theorem State.setRes4_acc (v0 v1 v2 v3 : Word) (s : State) : (s.setRes4 v0 v1 v2 v3).acc = s.acc := rfl
@[simp] theorem State.setRes4_width (v0 v1 v2 v3 : Word) (s : State) : (s.setRes4 v0 v1 v2 v3).width = s.width := rfl
@[simp] theorem State.setRes4_height (v0 v1 v2 v3 : Word) (s : State) : (s.setRes4 v0 v1 v2 v3).height = s.height := rfl
@[simp] theorem State.setRes4_palram (v0 v1 v2 v3 : Word) (s : State) : (s.setRes4 v0 v1 v2 v3).palram = s.palram := rfl
@[simp] theorem State.setRes4_pixram (v0 v1 v2 v3 : Word) (s : State) : (s.setRes4 v0 v1 v2 v3).pixram = s.pixram := rfl
@[simp] theorem State.setRes4_imgValid (v0 v1 v2 v3 : Word) (s : State) : (s.setRes4 v0 v1 v2 v3).imgValid = s.imgValid := rfl
@[simp] theorem State.setRes4_cmd (v0 v1 v2 v3 : Word) (s : State) : (s.setRes4 v0 v1 v2 v3).cmd = s.cmd := rfl
@[simp] theorem State.setRes4_arg (v0 v1 v2 v3 : Word) (s : State) : (s.setRes4 v0 v1 v2 v3).arg = s.arg := rfl
@[simp] theorem State.setRes4_res (v0 v1 v2 v3 : Word) (s : State) : (s.setRes4 v0 v1 v2 v3).res = #v[v0, v1, v2, v3] := rfl
@[simp] theorem State.setRes4_err (v0 v1 v2 v3 : Word) (s : State) : (s.setRes4 v0 v1 v2 v3).err = s.err := rfl
@[simp] theorem State.setRes4_errSub (v0 v1 v2 v3 : Word) (s : State) : (s.setRes4 v0 v1 v2 v3).errSub = s.errSub := rfl
@[simp] theorem State.setRes4_errReq (v0 v1 v2 v3 : Word) (s : State) : (s.setRes4 v0 v1 v2 v3).errReq = s.errReq := rfl
@[simp] theorem State.setRes4_errAct (v0 v1 v2 v3 : Word) (s : State) : (s.setRes4 v0 v1 v2 v3).errAct = s.errAct := rfl
@[simp] theorem State.setRes4_outLen (v0 v1 v2 v3 : Word) (s : State) : (s.setRes4 v0 v1 v2 v3).outLen = s.outLen := rfl
@[simp] theorem State.setRes4_seq (v0 v1 v2 v3 : Word) (s : State) : (s.setRes4 v0 v1 v2 v3).seq = s.seq := rfl
@[simp] theorem State.setRes4_tmp (v0 v1 v2 v3 : Word) (s : State) : (s.setRes4 v0 v1 v2 v3).tmp = s.tmp := rfl
@[simp] theorem State.setRes4_bufMax (v0 v1 v2 v3 : Word) (s : State) : (s.setRes4 v0 v1 v2 v3).bufMax = s.bufMax := rfl
@[simp] theorem State.setRes4_script (v0 v1 v2 v3 : Word) (s : State) : (s.setRes4 v0 v1 v2 v3).script = s.script := rfl
@[simp] theorem State.setRes4_freeCtr (v0 v1 v2 v3 : Word) (s : State) : (s.setRes4 v0 v1 v2 v3).freeCtr = s.freeCtr := rfl

/-! `State.setResColor`. -/

@[simp] theorem State.setResColor_buf (c : Color) (s : State) : (s.setResColor c).buf = s.buf := rfl
@[simp] theorem State.setResColor_bufLen (c : Color) (s : State) : (s.setResColor c).bufLen = s.bufLen := rfl
@[simp] theorem State.setResColor_pos (c : Color) (s : State) : (s.setResColor c).pos = s.pos := rfl
@[simp] theorem State.setResColor_depth (c : Color) (s : State) : (s.setResColor c).depth = s.depth := rfl
@[simp] theorem State.setResColor_palEmb (c : Color) (s : State) : (s.setResColor c).palEmb = s.palEmb := rfl
@[simp] theorem State.setResColor_layout (c : Color) (s : State) : (s.setResColor c).layout = s.layout := rfl
@[simp] theorem State.setResColor_acc (c : Color) (s : State) : (s.setResColor c).acc = s.acc := rfl
@[simp] theorem State.setResColor_width (c : Color) (s : State) : (s.setResColor c).width = s.width := rfl
@[simp] theorem State.setResColor_height (c : Color) (s : State) : (s.setResColor c).height = s.height := rfl
@[simp] theorem State.setResColor_palram (c : Color) (s : State) : (s.setResColor c).palram = s.palram := rfl
@[simp] theorem State.setResColor_pixram (c : Color) (s : State) : (s.setResColor c).pixram = s.pixram := rfl
@[simp] theorem State.setResColor_imgValid (c : Color) (s : State) : (s.setResColor c).imgValid = s.imgValid := rfl
@[simp] theorem State.setResColor_cmd (c : Color) (s : State) : (s.setResColor c).cmd = s.cmd := rfl
@[simp] theorem State.setResColor_arg (c : Color) (s : State) : (s.setResColor c).arg = s.arg := rfl
@[simp] theorem State.setResColor_res (c : Color) (s : State) : (s.setResColor c).res = #v[c.r.setWidth 32, c.g.setWidth 32, c.b.setWidth 32, c.a.setWidth 32] := rfl
@[simp] theorem State.setResColor_err (c : Color) (s : State) : (s.setResColor c).err = s.err := rfl
@[simp] theorem State.setResColor_errSub (c : Color) (s : State) : (s.setResColor c).errSub = s.errSub := rfl
@[simp] theorem State.setResColor_errReq (c : Color) (s : State) : (s.setResColor c).errReq = s.errReq := rfl
@[simp] theorem State.setResColor_errAct (c : Color) (s : State) : (s.setResColor c).errAct = s.errAct := rfl
@[simp] theorem State.setResColor_outLen (c : Color) (s : State) : (s.setResColor c).outLen = s.outLen := rfl
@[simp] theorem State.setResColor_seq (c : Color) (s : State) : (s.setResColor c).seq = s.seq := rfl
@[simp] theorem State.setResColor_tmp (c : Color) (s : State) : (s.setResColor c).tmp = s.tmp := rfl
@[simp] theorem State.setResColor_bufMax (c : Color) (s : State) : (s.setResColor c).bufMax = s.bufMax := rfl
@[simp] theorem State.setResColor_script (c : Color) (s : State) : (s.setResColor c).script = s.script := rfl
@[simp] theorem State.setResColor_freeCtr (c : Color) (s : State) : (s.setResColor c).freeCtr = s.freeCtr := rfl

/-! `State.goto`. -/

@[simp] theorem State.goto_buf (p : Phase) (s : State) : (s.goto p).buf = s.buf := rfl
@[simp] theorem State.goto_bufLen (p : Phase) (s : State) : (s.goto p).bufLen = s.bufLen := rfl
@[simp] theorem State.goto_pos (p : Phase) (s : State) : (s.goto p).pos = s.pos := rfl
@[simp] theorem State.goto_depth (p : Phase) (s : State) : (s.goto p).depth = s.depth := rfl
@[simp] theorem State.goto_palEmb (p : Phase) (s : State) : (s.goto p).palEmb = s.palEmb := rfl
@[simp] theorem State.goto_layout (p : Phase) (s : State) : (s.goto p).layout = s.layout := rfl
@[simp] theorem State.goto_acc (p : Phase) (s : State) : (s.goto p).acc = s.acc := rfl
@[simp] theorem State.goto_width (p : Phase) (s : State) : (s.goto p).width = s.width := rfl
@[simp] theorem State.goto_height (p : Phase) (s : State) : (s.goto p).height = s.height := rfl
@[simp] theorem State.goto_palram (p : Phase) (s : State) : (s.goto p).palram = s.palram := rfl
@[simp] theorem State.goto_pixram (p : Phase) (s : State) : (s.goto p).pixram = s.pixram := rfl
@[simp] theorem State.goto_imgValid (p : Phase) (s : State) : (s.goto p).imgValid = s.imgValid := rfl
@[simp] theorem State.goto_cmd (p : Phase) (s : State) : (s.goto p).cmd = s.cmd := rfl
@[simp] theorem State.goto_arg (p : Phase) (s : State) : (s.goto p).arg = s.arg := rfl
@[simp] theorem State.goto_res (p : Phase) (s : State) : (s.goto p).res = s.res := rfl
@[simp] theorem State.goto_err (p : Phase) (s : State) : (s.goto p).err = s.err := rfl
@[simp] theorem State.goto_errSub (p : Phase) (s : State) : (s.goto p).errSub = s.errSub := rfl
@[simp] theorem State.goto_errReq (p : Phase) (s : State) : (s.goto p).errReq = s.errReq := rfl
@[simp] theorem State.goto_errAct (p : Phase) (s : State) : (s.goto p).errAct = s.errAct := rfl
@[simp] theorem State.goto_outLen (p : Phase) (s : State) : (s.goto p).outLen = s.outLen := rfl
@[simp] theorem State.goto_seq (p : Phase) (s : State) : (s.goto p).seq = p := rfl
@[simp] theorem State.goto_tmp (p : Phase) (s : State) : (s.goto p).tmp = s.tmp := rfl
@[simp] theorem State.goto_bufMax (p : Phase) (s : State) : (s.goto p).bufMax = s.bufMax := rfl
@[simp] theorem State.goto_script (p : Phase) (s : State) : (s.goto p).script = s.script := rfl
@[simp] theorem State.goto_freeCtr (p : Phase) (s : State) : (s.goto p).freeCtr = s.freeCtr := rfl

/-! `State.advance`. -/

@[simp] theorem State.advance_buf (n : Nat) (s : State) : (s.advance n).buf = s.buf := rfl
@[simp] theorem State.advance_bufLen (n : Nat) (s : State) : (s.advance n).bufLen = s.bufLen := rfl
@[simp] theorem State.advance_pos (n : Nat) (s : State) : (s.advance n).pos = s.pos + n := rfl
@[simp] theorem State.advance_depth (n : Nat) (s : State) : (s.advance n).depth = s.depth := rfl
@[simp] theorem State.advance_palEmb (n : Nat) (s : State) : (s.advance n).palEmb = s.palEmb := rfl
@[simp] theorem State.advance_layout (n : Nat) (s : State) : (s.advance n).layout = s.layout := rfl
@[simp] theorem State.advance_acc (n : Nat) (s : State) : (s.advance n).acc = s.acc := rfl
@[simp] theorem State.advance_width (n : Nat) (s : State) : (s.advance n).width = s.width := rfl
@[simp] theorem State.advance_height (n : Nat) (s : State) : (s.advance n).height = s.height := rfl
@[simp] theorem State.advance_palram (n : Nat) (s : State) : (s.advance n).palram = s.palram := rfl
@[simp] theorem State.advance_pixram (n : Nat) (s : State) : (s.advance n).pixram = s.pixram := rfl
@[simp] theorem State.advance_imgValid (n : Nat) (s : State) : (s.advance n).imgValid = s.imgValid := rfl
@[simp] theorem State.advance_cmd (n : Nat) (s : State) : (s.advance n).cmd = s.cmd := rfl
@[simp] theorem State.advance_arg (n : Nat) (s : State) : (s.advance n).arg = s.arg := rfl
@[simp] theorem State.advance_res (n : Nat) (s : State) : (s.advance n).res = s.res := rfl
@[simp] theorem State.advance_err (n : Nat) (s : State) : (s.advance n).err = s.err := rfl
@[simp] theorem State.advance_errSub (n : Nat) (s : State) : (s.advance n).errSub = s.errSub := rfl
@[simp] theorem State.advance_errReq (n : Nat) (s : State) : (s.advance n).errReq = s.errReq := rfl
@[simp] theorem State.advance_errAct (n : Nat) (s : State) : (s.advance n).errAct = s.errAct := rfl
@[simp] theorem State.advance_outLen (n : Nat) (s : State) : (s.advance n).outLen = s.outLen := rfl
@[simp] theorem State.advance_seq (n : Nat) (s : State) : (s.advance n).seq = s.seq := rfl
@[simp] theorem State.advance_tmp (n : Nat) (s : State) : (s.advance n).tmp = s.tmp := rfl
@[simp] theorem State.advance_bufMax (n : Nat) (s : State) : (s.advance n).bufMax = s.bufMax := rfl
@[simp] theorem State.advance_script (n : Nat) (s : State) : (s.advance n).script = s.script := rfl
@[simp] theorem State.advance_freeCtr (n : Nat) (s : State) : (s.advance n).freeCtr = s.freeCtr := rfl

/-! `State.alignPos`. -/

@[simp] theorem State.alignPos_buf (s : State) : (s.alignPos).buf = s.buf := rfl
@[simp] theorem State.alignPos_bufLen (s : State) : (s.alignPos).bufLen = s.bufLen := rfl
@[simp] theorem State.alignPos_pos (s : State) : (s.alignPos).pos = 8 * ceil8 s.pos := rfl
@[simp] theorem State.alignPos_depth (s : State) : (s.alignPos).depth = s.depth := rfl
@[simp] theorem State.alignPos_palEmb (s : State) : (s.alignPos).palEmb = s.palEmb := rfl
@[simp] theorem State.alignPos_layout (s : State) : (s.alignPos).layout = s.layout := rfl
@[simp] theorem State.alignPos_acc (s : State) : (s.alignPos).acc = s.acc := rfl
@[simp] theorem State.alignPos_width (s : State) : (s.alignPos).width = s.width := rfl
@[simp] theorem State.alignPos_height (s : State) : (s.alignPos).height = s.height := rfl
@[simp] theorem State.alignPos_palram (s : State) : (s.alignPos).palram = s.palram := rfl
@[simp] theorem State.alignPos_pixram (s : State) : (s.alignPos).pixram = s.pixram := rfl
@[simp] theorem State.alignPos_imgValid (s : State) : (s.alignPos).imgValid = s.imgValid := rfl
@[simp] theorem State.alignPos_cmd (s : State) : (s.alignPos).cmd = s.cmd := rfl
@[simp] theorem State.alignPos_arg (s : State) : (s.alignPos).arg = s.arg := rfl
@[simp] theorem State.alignPos_res (s : State) : (s.alignPos).res = s.res := rfl
@[simp] theorem State.alignPos_err (s : State) : (s.alignPos).err = s.err := rfl
@[simp] theorem State.alignPos_errSub (s : State) : (s.alignPos).errSub = s.errSub := rfl
@[simp] theorem State.alignPos_errReq (s : State) : (s.alignPos).errReq = s.errReq := rfl
@[simp] theorem State.alignPos_errAct (s : State) : (s.alignPos).errAct = s.errAct := rfl
@[simp] theorem State.alignPos_outLen (s : State) : (s.alignPos).outLen = s.outLen := rfl
@[simp] theorem State.alignPos_seq (s : State) : (s.alignPos).seq = s.seq := rfl
@[simp] theorem State.alignPos_tmp (s : State) : (s.alignPos).tmp = s.tmp := rfl
@[simp] theorem State.alignPos_bufMax (s : State) : (s.alignPos).bufMax = s.bufMax := rfl
@[simp] theorem State.alignPos_script (s : State) : (s.alignPos).script = s.script := rfl
@[simp] theorem State.alignPos_freeCtr (s : State) : (s.alignPos).freeCtr = s.freeCtr := rfl

/-! `State.raise`. -/

@[simp] theorem State.raise_buf (x : Exc) (s : State) : (s.raise x).buf = s.buf := rfl
@[simp] theorem State.raise_bufLen (x : Exc) (s : State) : (s.raise x).bufLen = s.bufLen := rfl
@[simp] theorem State.raise_pos (x : Exc) (s : State) : (s.raise x).pos = s.pos := rfl
@[simp] theorem State.raise_depth (x : Exc) (s : State) : (s.raise x).depth = s.depth := rfl
@[simp] theorem State.raise_palEmb (x : Exc) (s : State) : (s.raise x).palEmb = s.palEmb := rfl
@[simp] theorem State.raise_layout (x : Exc) (s : State) : (s.raise x).layout = s.layout := rfl
@[simp] theorem State.raise_acc (x : Exc) (s : State) : (s.raise x).acc = s.acc := rfl
@[simp] theorem State.raise_width (x : Exc) (s : State) : (s.raise x).width = s.width := rfl
@[simp] theorem State.raise_height (x : Exc) (s : State) : (s.raise x).height = s.height := rfl
@[simp] theorem State.raise_palram (x : Exc) (s : State) : (s.raise x).palram = s.palram := rfl
@[simp] theorem State.raise_pixram (x : Exc) (s : State) : (s.raise x).pixram = s.pixram := rfl
@[simp] theorem State.raise_imgValid (x : Exc) (s : State) : (s.raise x).imgValid = s.imgValid := rfl
@[simp] theorem State.raise_cmd (x : Exc) (s : State) : (s.raise x).cmd = s.cmd := rfl
@[simp] theorem State.raise_arg (x : Exc) (s : State) : (s.raise x).arg = s.arg := rfl
@[simp] theorem State.raise_res (x : Exc) (s : State) : (s.raise x).res = #v[Config.freeWord s.freeCtr, Config.freeWord (s.freeCtr + 1),
      Config.freeWord (s.freeCtr + 2), Config.freeWord (s.freeCtr + 3)] := rfl
@[simp] theorem State.raise_err (x : Exc) (s : State) : (s.raise x).err = x.errCode := rfl
@[simp] theorem State.raise_errSub (x : Exc) (s : State) : (s.raise x).errSub = x.errSubCode := rfl
@[simp] theorem State.raise_errReq (x : Exc) (s : State) : (s.raise x).errReq = match x with
      | .bufferTooSmall q _ => sizeWord q (Config.freeWord (s.freeCtr + 4))
      | _ => s.errReq := rfl
@[simp] theorem State.raise_errAct (x : Exc) (s : State) : (s.raise x).errAct = match x with
      | .bufferTooSmall _ c => sizeWord c (Config.freeWord (s.freeCtr + 5))
      | _ => s.errAct := rfl
@[simp] theorem State.raise_outLen (x : Exc) (s : State) : (s.raise x).outLen = s.outLen := rfl
@[simp] theorem State.raise_seq (x : Exc) (s : State) : (s.raise x).seq = .idle := rfl
@[simp] theorem State.raise_tmp (x : Exc) (s : State) : (s.raise x).tmp = StepVars.empty := rfl
@[simp] theorem State.raise_bufMax (x : Exc) (s : State) : (s.raise x).bufMax = s.bufMax := rfl
@[simp] theorem State.raise_script (x : Exc) (s : State) : (s.raise x).script = s.script := rfl
@[simp] theorem State.raise_freeCtr (x : Exc) (s : State) : (s.raise x).freeCtr = s.freeCtr + 6 := rfl

/-! Repeated updates. -/

@[simp] theorem State.begin_begin (s : State) : s.begin.begin = s.begin := rfl
@[simp] theorem State.goto_goto (p q : Phase) (s : State) : (s.goto p).goto q = s.goto q := rfl
theorem State.advance_advance (m n : Nat) (s : State) : (s.advance m).advance n = s.advance (m + n) := by
  simp [State.advance, Nat.add_assoc]
@[simp] theorem State.bitsLeft_goto (p : Phase) (s : State) : (s.goto p).bitsLeft = s.bitsLeft := rfl
@[simp] theorem State.bitsLeft_begin (s : State) : s.begin.bitsLeft = s.bitsLeft := rfl

/-- The size registers hold a size below 2^32 as it is. -/
theorem sizeWord_toNat {n : Nat} (f : Word) (h : n < 2 ^ 32) : (sizeWord n f).toNat = n := by
  rw [sizeWord, if_pos h, BitVec.toNat_ofNat, Nat.mod_eq_of_lt h]

end Sys2Proof.Machine
end

