-- ==== Sys2Proof/Laws/Ops.lean ====
section
/-! SUPPORT. What each shared operation of a command can do, once: the sequence of sub-steps, the operand checks, the reads and
writes at POS. Proofs cite these instead of unfolding the operations. -/

namespace Sys2Proof.Machine

variable {α β : Type}

/-! Sub-steps. -/

@[simp] theorem Run.done_andThen (a : α) (s : State) (f : α → State → Run β) : (Run.done a s).andThen f = f a s := rfl

@[simp] theorem Run.raised_andThen (x : Exc) (s : State) (f : α → State → Run β) :
    (Run.raised x s : Run α).andThen f = .raised x s := rfl

theorem Run.andThen_assoc {γ : Type} (r : Run α) (f : α → State → Run β) (g : β → State → Run γ) :
    (r.andThen f).andThen g = r.andThen fun a s => (f a s).andThen g := by cases r <;> rfl

@[simp] theorem Run.finish_done (u : Unit) (s : State) : (Run.done u s).finish = .next s := rfl

@[simp] theorem Run.finish_raised (x : Exc) (s : State) : (Run.raised x s).finish = .next (s.raise x) := rfl

/-- A sequence of two sub-steps that is done: both were. -/
theorem Run.andThen_eq_done {r : Run α} {f : α → State → Run β} {b : β} {t : State} :
    r.andThen f = .done b t ↔ ∃ a s, r = .done a s ∧ f a s = .done b t := by
  cases r <;> simp

/-- A sequence of two sub-steps that raised: the first did, or it was done and the second did. -/
theorem Run.andThen_eq_raised {r : Run α} {f : α → State → Run β} {x : Exc} {t : State} :
    r.andThen f = .raised x t ↔ r = .raised x t ∨ ∃ a s, r = .done a s ∧ f a s = .raised x t := by
  cases r <;> simp

/-- How a command that answers `next` ended: it was done, or it took an exception. -/
theorem Run.finish_eq_next {r : Run Unit} {t : State} :
    r.finish = .next t ↔ r = .done () t ∨ ∃ x s, r = .raised x s ∧ t = s.raise x := by
  cases r with
  | done u s => simp
  | raised x s => simp [eq_comm]

/-! Operand checks (30_encoding.md R111). -/

theorem firstFault_eq_none {ops : List (OperandKind × Word)} :
    firstFault ops = none ↔ ∀ o ∈ ops, o.1.admits o.2 = true := by
  induction ops with
  | nil => simp [firstFault]
  | cons o rest ih =>
    obtain ⟨k, v⟩ := o
    simp only [firstFault]
    split <;> simp_all

/-- The operand checks pass, with the state unchanged, exactly when every operand is in its range. -/
theorem checkOperands_eq_done {ops : List (OperandKind × Word)} {s t : State} {u : Unit} :
    checkOperands ops s = .done u t ↔ (∀ o ∈ ops, o.1.admits o.2 = true) ∧ t = s := by
  rw [checkOperands, ← firstFault_eq_none]
  cases firstFault ops <;> simp [eq_comm]

/-- The operand checks raise the fault of the first operand out of range, with the state unchanged. -/
theorem checkOperands_eq_raised {ops : List (OperandKind × Word)} {s t : State} {x : Exc} :
    checkOperands ops s = .raised x t ↔ (∃ c, firstFault ops = some c ∧ x = .assert c) ∧ t = s := by
  rw [checkOperands]
  cases firstFault ops <;> simp [eq_comm]

/-- The check that there is an image. -/
theorem needImage_eq_done {s t : State} {u : Unit} : needImage s = .done u t ↔ s.imgValid = true ∧ t = s := by
  rw [needImage]
  cases s.imgValid <;> simp [eq_comm]

theorem needImage_eq_raised {s t : State} {x : Exc} :
    needImage s = .raised x t ↔ s.imgValid = false ∧ x = .assert .noImage ∧ t = s := by
  rw [needImage]
  cases s.imgValid <;> simp [eq_comm]

/-! The BitCursor (40_bitcursor.md R131, R133). -/

/-- A read with room for it returns the field and advances POS. -/
theorem readBits_of_room {n : Nat} {s : State} (h : s.pos + n ≤ 8 * s.bufLen) :
    readBits n s = .done (memRead s.buf s.pos n) (s.advance n) := by
  rw [readBits, if_neg]
  simp only [State.bitsLeft]; omega

/-- A read of at least one bit without room for it raises, with the state unchanged. -/
theorem readBits_of_short {n : Nat} {s : State} (hn : 1 ≤ n) (h : 8 * s.bufLen < s.pos + n) :
    readBits n s = .raised (.decode .insufficientBits) s := by
  rw [readBits, if_pos]
  simp only [State.bitsLeft]; omega

/-- Everything a read can do. -/
theorem readBits_cases {n : Nat} (s : State) (hn : 1 ≤ n) :
    (s.pos + n ≤ 8 * s.bufLen ∧ readBits n s = .done (memRead s.buf s.pos n) (s.advance n)) ∨
    (8 * s.bufLen < s.pos + n ∧ readBits n s = .raised (.decode .insufficientBits) s) := by
  rcases Nat.lt_or_ge (8 * s.bufLen) (s.pos + n) with h | h
  · exact .inr ⟨h, readBits_of_short hn h⟩
  · exact .inl ⟨h, readBits_of_room h⟩

/-- A write whose three conditions hold writes the field and advances POS. -/
theorem writeBits_of_room {v n : Nat} {s : State} (h1 : 1 ≤ n) (h32 : n ≤ 32) (hv : v < 2 ^ n)
    (h : s.pos + n ≤ 8 * s.bufLen) :
    writeBits v n s = .done () ({ s with buf := memWrite s.buf s.pos v n }.advance n) := by
  rw [writeBits, if_neg (by omega), if_neg (by omega), if_neg]
  simp only [State.bitsLeft]; omega

/-- Everything a write can do, in the order of its checks; where it raises, the state is unchanged. -/
theorem writeBits_cases (v n : Nat) (s : State) :
    ((n < 1 ∨ 32 < n) ∧ writeBits v n s = .raised (.assert .badBitcount) s) ∨
    (1 ≤ n ∧ n ≤ 32 ∧ 2 ^ n ≤ v ∧ writeBits v n s = .raised (.assert .valueTooWide) s) ∨
    (1 ≤ n ∧ n ≤ 32 ∧ v < 2 ^ n ∧ 8 * s.bufLen < s.pos + n ∧
      writeBits v n s = .raised (.bufferTooSmall (ceil8 (s.pos + n)) s.bufLen) s) ∨
    (1 ≤ n ∧ n ≤ 32 ∧ v < 2 ^ n ∧ s.pos + n ≤ 8 * s.bufLen ∧
      writeBits v n s = .done () ({ s with buf := memWrite s.buf s.pos v n }.advance n)) := by
  by_cases hn : n < 1 ∨ 32 < n
  · exact .inl ⟨hn, by rw [writeBits, if_pos hn]⟩
  by_cases hv : 2 ^ n ≤ v
  · exact .inr (.inl ⟨by omega, by omega, hv, by rw [writeBits, if_neg hn, if_pos hv]⟩)
  rcases Nat.lt_or_ge (8 * s.bufLen) (s.pos + n) with h | h
  · refine .inr (.inr (.inl ⟨by omega, by omega, by omega, h, ?_⟩))
    rw [writeBits, if_neg hn, if_neg hv, if_pos]
    simp only [State.bitsLeft]; omega
  · exact .inr (.inr (.inr ⟨by omega, by omega, by omega, h, writeBits_of_room (by omega) (by omega) (by omega) h⟩))

/-- A byte read with room for it. -/
theorem readByte_of_room {s : State} (h : s.pos + 8 ≤ 8 * s.bufLen) :
    readByte s = .done (BitVec.ofNat 8 (memRead s.buf s.pos 8)) (s.advance 8) := by
  rw [readByte, readBits_of_room h]; rfl

/-- At a byte boundary with room, a byte read returns the byte. -/
theorem readByte_aligned {s : State} {j : Nat} (hp : s.pos = 8 * j) (h : j < s.bufLen) :
    readByte s = .done (bufByte s.buf j) (s.advance 8) := by
  rw [readByte_of_room (by omega), hp, memRead_byte, BitVec.ofNat_toNat, BitVec.setWidth_eq]

/-- `n` bytes read at a byte boundary with room for them. -/
theorem readBytes_aligned (n : Nat) : ∀ {s : State} {j : Nat}, s.pos = 8 * j → j + n ≤ s.bufLen →
    readBytes n s = .done ((List.range' j n).map (bufByte s.buf)) (s.advance (8 * n)) := by
  induction n with
  | zero => intro s j _ _; simp [readBytes, State.advance]
  | succ n ih =>
    intro s j hp h
    rw [readBytes, readByte_aligned hp (by omega), Run.done_andThen,
      ih (s := s.advance 8) (j := j + 1) (by simp [hp]; omega) (by simp; omega)]
    simp only [Run.done_andThen, State.advance_advance, State.advance_buf, List.range'_succ, List.map_cons]
    congr 2; omega

/-- The padding write: nothing at a byte boundary, else zero bits up to the next one. -/
theorem writePad_cases {s : State} (h : s.pos ≤ 8 * s.bufLen) :
    (s.pos % 8 = 0 ∧ writePad s = .done () s) ∨
    (s.pos % 8 ≠ 0 ∧ writePad s =
      .done () ({ s with buf := memWrite s.buf s.pos 0 (8 * ceil8 s.pos - s.pos) }.advance (8 * ceil8 s.pos - s.pos))) := by
  by_cases hp : s.pos % 8 = 0
  · refine .inl ⟨hp, ?_⟩
    have : ¬ 0 < 8 * ceil8 s.pos - s.pos := by simp only [ceil8]; omega
    simp only [writePad, if_neg this]
  · refine .inr ⟨hp, ?_⟩
    have h1 : 0 < 8 * ceil8 s.pos - s.pos := by simp only [ceil8]; omega
    have h2 : 8 * ceil8 s.pos - s.pos ≤ 7 := by simp only [ceil8]; omega
    have h3 : s.pos + (8 * ceil8 s.pos - s.pos) ≤ 8 * s.bufLen := by simp only [ceil8]; omega
    simp only [writePad, if_pos h1]
    exact writeBits_of_room h1 (by omega) (Nat.two_pow_pos _) h3

end Sys2Proof.Machine
end

