-- ==== Sys2Proof/Laws/PerInstr.lean ====
section
/-! SUPPORT. What holds of every instruction as syntax, one lemma for each constructor. Family RowMatches: a byte belongs to an
instruction's row exactly when it has the instruction's bits under the row's mask. -/

namespace Sys2Proof.Laws.RowMatches

/-- The bytes that decode to `i` in its encoding are those that have `i`'s bits under its row's mask. -/
def Statement (i : Instr) : Prop :=
  ∀ b : Byte, b &&& rowMask i = encodeInstr i ↔ decodeIn i.encoding b = some i

theorem newcursor : Statement .newcursor := by
  unfold Statement
  decide
theorem readbits : Statement .readbits := by
  unfold Statement
  decide
theorem readbyte : Statement .readbyte := by
  unfold Statement
  decide
theorem writebits : Statement .writebits := by
  unfold Statement
  decide
theorem mfDecode : Statement .mfDecode := by
  unfold Statement
  decide
theorem mfEncode : Statement .mfEncode := by
  unfold Statement
  decide
theorem colorcountfor : Statement .colorcountfor := by
  unfold Statement
  decide
theorem channelcountfor : Statement .channelcountfor := by
  unfold Statement
  decide
theorem quant1 : Statement .quant1 := by
  unfold Statement
  decide
theorem quant2 : Statement .quant2 := by
  unfold Statement
  decide
theorem quant8 : Statement .quant8 := by
  unfold Statement
  decide
theorem color : Statement .color := by
  unfold Statement
  decide
theorem defcolor : Statement .defcolor := by
  unfold Statement
  decide
theorem loaddefpal : Statement .loaddefpal := by
  unfold Statement
  decide
theorem decode : Statement .decode := by
  unfold Statement
  decide
theorem colorat : Statement .colorat := by
  unfold Statement
  decide
theorem bytecount : Statement .bytecount := by
  unfold Statement
  decide
theorem encode : Statement .encode := by
  unfold Statement
  decide
theorem build : Statement .build := by
  unfold Statement
  decide
theorem modeDepthOneBit : Statement .modeDepthOneBit := by
  unfold Statement
  decide
theorem modeDepthTwoBit : Statement .modeDepthTwoBit := by
  unfold Statement
  decide
theorem modeDepthEightBit : Statement .modeDepthEightBit := by
  unfold Statement
  decide
theorem modeDepthReserved : Statement .modeDepthReserved := by
  unfold Statement
  decide
theorem modePaletteNo : Statement .modePaletteNo := by
  unfold Statement
  decide
theorem modePaletteYes : Statement .modePaletteYes := by
  unfold Statement
  decide
theorem modeLayoutGrayscale : Statement .modeLayoutGrayscale := by
  unfold Statement
  decide
theorem modeLayoutRgb : Statement .modeLayoutRgb := by
  unfold Statement
  decide
theorem modeLayoutRgba : Statement .modeLayoutRgba := by
  unfold Statement
  decide
theorem modeLayoutReserved : Statement .modeLayoutReserved := by
  unfold Statement
  decide
theorem modeAccuracyTwoBit : Statement .modeAccuracyTwoBit := by
  unfold Statement
  decide
theorem modeAccuracyEightBit : Statement .modeAccuracyEightBit := by
  unfold Statement
  decide
theorem modeReserved43 (rr : BitVec 2) : Statement (.modeReserved43 rr) := by
  unfold Statement
  revert rr
  decide

end Sys2Proof.Laws.RowMatches
end

