-- ==== Sys2Proof/Laws/Step.lean ====
section
/-! SUPPORT. What one step can do, once. -/

namespace Sys2Proof.Machine

/-- With no action to come, a step changes nothing. -/
theorem step_idle {s : State} (h : s.script = []) : step s = .next s := by rw [step, h]

/-- With an action to come, a step performs it in the state that has the rest of the script. -/
theorem step_cons {s : State} {a : PortAction} {rest : List PortAction} (h : s.script = a :: rest) :
    step s = act a { s with script := rest } := by rw [step, h]

/-- A write of CMD of a legal opcode runs its command. -/
theorem act_writeCmd_of_decode {s : State} {op : Byte} {i : Instr} (h : decodeOpcode op = some i) :
    act (.writeCmd op) s = exec i { s with cmd := op } := by
  simp [act, runCommand, decodeCommand, State.commandBytes, h]

/-- A write of CMD of an illegal opcode takes BAD_COMMAND. -/
theorem act_writeCmd_of_illegal {s : State} {op : Byte} (h : decodeOpcode op = none) :
    act (.writeCmd op) s = .next ({ s with cmd := op }.raise (.assert .badCommand)) := by
  simp [act, runCommand, decodeCommand, State.commandBytes, illegalCommand, h]

/-- Everything a step that answers `next` can have done. -/
theorem step_cases {s t : State} (h : step s = .next t) :
    (s.script = [] ∧ t = s) ∨
    ∃ a rest, s.script = a :: rest ∧
      ((∃ j b, a = .writeBuf j b ∧ j < s.bufMax ∧
          t = { s with script := rest, buf := Memory.write unlistedByte j b s.buf }) ∨
       (∃ n, a = .writeBufLen n ∧ n ≤ s.bufMax ∧ t = { s with script := rest, bufLen := n }) ∨
       (∃ i c, a = .writePal i c ∧
          t = { s with script := rest, palram := Memory.write unlistedColor i.toNat c s.palram, imgValid := false }) ∨
       (∃ k v, a = .writePix k v ∧ k < pixMax ∧
          t = { s with script := rest, pixram := Memory.write unlistedByte k v s.pixram, imgValid := false }) ∨
       (∃ i v, a = .writeArg i v ∧ t = { s with script := rest, arg := s.arg.set i v }) ∨
       (∃ r, a = .read r ∧ t = { s with script := rest }) ∨
       (∃ op i, a = .writeCmd op ∧ decodeOpcode op = some i ∧ exec i { s with script := rest, cmd := op } = .next t) ∨
       (∃ op, a = .writeCmd op ∧ decodeOpcode op = none ∧
          t = { s with script := rest, cmd := op }.raise (.assert .badCommand))) := by
  rcases hs : s.script with _ | ⟨a, rest⟩
  · rw [step_idle hs] at h
    exact .inl ⟨rfl, by simpa using h.symm⟩
  refine .inr ⟨a, rest, rfl, ?_⟩
  rw [step_cons hs] at h
  cases a with
  | writeBuf j b =>
    simp only [act, portWriteBuf] at h
    split at h
    · exact .inl ⟨j, b, rfl, ‹_›, by simpa using h.symm⟩
    · cases h
  | writeBufLen n =>
    simp only [act, portWriteBufLen] at h
    split at h
    · exact .inr (.inl ⟨n, rfl, ‹_›, by simpa using h.symm⟩)
    · cases h
  | writePal i c => exact .inr (.inr (.inl ⟨i, c, rfl, by simpa [act, portWritePal] using h.symm⟩))
  | writePix k v =>
    simp only [act, portWritePix] at h
    split at h
    · exact .inr (.inr (.inr (.inl ⟨k, v, rfl, ‹_›, by simpa using h.symm⟩)))
    · cases h
  | writeArg i v => exact .inr (.inr (.inr (.inr (.inl ⟨i, v, rfl, by simpa [act, portWriteArg] using h.symm⟩))))
  | read r =>
    simp only [act, portReadAction] at h
    split at h
    · exact .inr (.inr (.inr (.inr (.inr (.inl ⟨r, rfl, by simpa using h.symm⟩)))))
    · cases h
  | writeCmd op =>
    rcases hd : decodeOpcode op with _ | i
    · rw [act_writeCmd_of_illegal hd] at h
      exact .inr (.inr (.inr (.inr (.inr (.inr (.inr ⟨op, rfl, hd, by simpa using h.symm⟩))))))
    · rw [act_writeCmd_of_decode hd] at h
      exact .inr (.inr (.inr (.inr (.inr (.inr (.inl ⟨op, i, rfl, hd, h⟩))))))

end Sys2Proof.Machine
end

