-- ==== Sys2Proof/Tests/Slice0.lean ====
section
/-! SUPPORT. Tests whose expected values are those of the spec (95_test_vectors.md; each names its vector or its rule), and for
each statement a witness that its hypotheses are met. -/

namespace Sys2Proof.Tests

open Sys2Proof Sys2Proof.Machine

/-! Small states. -/

/-- The state after reset with these bytes in BUF, BUF_LEN their count, POS and ARG[0..3] as given. -/
def withBuf (bytes : List Byte) (pos : Nat := 0) (a0 a1 a2 a3 : Word := 0) : State :=
  { State.reset with
    buf := Memory.writeAll unlistedByte 0 bytes [], bufLen := bytes.length, pos := pos
    arg := #v[a0, a1, a2, a3, 0, 0] }

/-- The state after reset with these operands. -/
def withArgs (a0 : Word) (a1 a2 a3 a4 a5 : Word := 0) : State := { State.reset with arg := #v[a0, a1, a2, a3, a4, a5] }

/-- `IMRETRO` and more bytes, in BUF. -/
def stream (bytes : List Byte) : State := withBuf ([0x49, 0x4D, 0x52, 0x45, 0x54, 0x52, 0x4F] ++ bytes)

/-- An image two pixels wide and one high, OneBit, black and white, its pixels 0 and 1. -/
def small (a0 a1 : Word) : State :=
  { withArgs a0 a1 with
    width := 2, height := 1, imgValid := true, pixram := [(1, 1)]
    palram := [(0, { r := 0, g := 0, b := 0, a := 255 }), (1, { r := 255, g := 255, b := 255, a := 255 })] }

/-- A field of the state after an instruction. -/
def after {α : Type} (i : Instr) (s : State) (f : State → α) : Option α :=
  match exec i s with
  | .next t => some (f t)
  | .fault _ => none
  | .refused _ => none

/-- ERR and ERR_SUB. -/
def errOf (s : State) : BitVec 4 × BitVec 4 := (s.err, s.errSub)

/-! Well-formedness: an ill-formed term for each check. -/

theorem test_wellFormed_depth : Instr.modeDepthReserved.depthNamed = false ∧ Instr.modeDepthReserved.wellFormed = false := by
  decide
theorem test_wellFormed_layout : Instr.modeLayoutReserved.layoutNamed = false ∧ Instr.modeLayoutReserved.wellFormed = false := by
  decide
theorem test_wellFormed_reserved :
    (Instr.modeReserved43 0b01).reservedZero = false ∧ (Instr.modeReserved43 0b01).wellFormed = false := by decide
theorem test_wellFormed_accepts :
    Instr.build.wellFormed = true ∧ Instr.modeDepthEightBit.wellFormed = true ∧ (Instr.modeReserved43 0b00).wellFormed = true := by
  decide

/-! Decoding: every opcode as 30_encoding.md R113 writes it, every mode-byte pattern as R93 to R95 write it. -/

theorem test_decode_bitcursor :
    decodeTableWord 8 0b00000001 = some .newcursor ∧ decodeTableWord 8 0b00000010 = some .readbits ∧
    decodeTableWord 8 0b00000011 = some .readbyte ∧ decodeTableWord 8 0b00000100 = some .writebits := by decide
theorem test_decode_modeflags :
    decodeTableWord 8 0b00010000 = some .mfDecode ∧ decodeTableWord 8 0b00010001 = some .mfEncode ∧
    decodeTableWord 8 0b00010010 = some .colorcountfor ∧ decodeTableWord 8 0b00010011 = some .channelcountfor := by decide
theorem test_decode_palette :
    decodeTableWord 8 0b00100000 = some .quant1 ∧ decodeTableWord 8 0b00100001 = some .quant2 ∧
    decodeTableWord 8 0b00100010 = some .quant8 ∧ decodeTableWord 8 0b00100011 = some .color ∧
    decodeTableWord 8 0b00100100 = some .defcolor ∧ decodeTableWord 8 0b00100101 = some .loaddefpal := by decide
theorem test_decode_imagecodec :
    decodeTableWord 8 0b00110000 = some .decode ∧ decodeTableWord 8 0b00110001 = some .colorat ∧
    decodeTableWord 8 0b00110010 = some .bytecount ∧ decodeTableWord 8 0b00110011 = some .encode ∧
    decodeTableWord 8 0b00110100 = some .build := by decide
/-- H10's opcodes. -/
theorem test_decode_illegal :
    decodeCommand [0x00] = .reject (.badCommand 0x00) ∧ decodeCommand [0x05] = .reject (.badCommand 0x05) ∧
    decodeCommand [0x35] = .reject (.badCommand 0x35) ∧ decodeCommand [0xFF] = .reject (.badCommand 0xFF) ∧
    decodeCommand [] = .reject .noByte := by decide
/-- S1's byte, and every other pattern of each field in some byte. -/
theorem test_decode_modeByte :
    decodeModeByte 0b10100101 =
      [.modeDepthEightBit, .modePaletteYes, .modeReserved43 0b00, .modeLayoutRgba, .modeAccuracyEightBit] ∧
    decodeModeByte 0b00011000 =
      [.modeDepthOneBit, .modePaletteNo, .modeReserved43 0b11, .modeLayoutGrayscale, .modeAccuracyTwoBit] ∧
    decodeModeByte 0b01101010 =
      [.modeDepthTwoBit, .modePaletteYes, .modeReserved43 0b01, .modeLayoutRgb, .modeAccuracyTwoBit] ∧
    decodeModeByte 0b11110111 =
      [.modeDepthReserved, .modePaletteYes, .modeReserved43 0b10, .modeLayoutReserved, .modeAccuracyEightBit] := by decide

/-! The BitCursor. -/

/-- B2. -/
theorem test_readbits_across_bytes :
    after .readbits (withBuf [0xA5, 0xC3] 4 6) (fun t => (t.res[0], t.pos)) = some (23, 10) := by decide
/-- B12. -/
theorem test_readbits_checks_count_first : after .readbits (withArgs 33) errOf = some (15, 3) := by decide
/-- B3. -/
theorem test_readbyte : after .readbyte (withBuf [0xA5, 0xC3] 4) (fun t => (t.res[0], t.pos)) = some (0x5C, 12) := by decide
/-- B14. -/
theorem test_writebits_keeps_neighbours :
    after .writebits (withBuf [0xFF, 0xFF] 4 0 6) (fun t => (bufByte t.buf 0, bufByte t.buf 1, t.pos)) =
      some (0xF0, 0x3F, 10) := by decide
/-- B16. -/
theorem test_writebits_too_small :
    after .writebits (withBuf [0x00] 8 0 1) (fun t => (t.err, t.errReq, t.errAct, t.pos)) = some (8, 2, 1, 8) := by decide
/-- B21. -/
theorem test_newcursor : after .newcursor (withBuf [0xA5, 0xC3] 11) (fun t => (t.pos, t.bufLen)) = some (0, 2) := by decide

/-! ModeFlags. -/

/-- S1. -/
theorem test_mfDecode : after .mfDecode (withArgs 0xA5) (fun t => t.res) = some #v[2, 1, 2, 1] := by decide
/-- M4b. -/
theorem test_mfDecode_range : after .mfDecode (withArgs 0x100) errOf = some (15, 10) := by decide
/-- M8. -/
theorem test_mfEncode : after .mfEncode (withArgs 1 1 1 0) (fun t => t.res[0]) = some 0x62 := by decide
/-- M12. -/
theorem test_mfEncode_order : after .mfEncode (withArgs 0 2 3 2) errOf = some (15, 10) := by decide
/-- M5. -/
theorem test_colorcountfor : after .colorcountfor (withArgs 2) (fun t => t.res[0]) = some 256 := by decide
/-- M6. -/
theorem test_channelcountfor : after .channelcountfor (withArgs 1) (fun t => t.res[0]) = some 3 := by decide
/-- 30_encoding.md R93: the row of `10` in bits 7:6, and of `1` in bit 5. -/
theorem test_mode_rows :
    after .modeDepthEightBit State.reset (fun t => t.tmp.d) = some .eightBit ∧
    after .modePaletteYes State.reset (fun t => t.tmp.p) = some true := by decide
/-- 30_encoding.md R95. -/
theorem test_mode_rows_reserved :
    after .modeDepthReserved State.reset errOf = some (5, 0) ∧
    after .modeLayoutReserved State.reset errOf = some (5, 0) := by decide

/-! The palette. -/

/-- Q1h: "not sum"; Q1e. -/
theorem test_quant1 :
    after .quant1 (withArgs 64 64 64 255) (fun t => t.res[0]) = some 0 ∧
    after .quant1 (withArgs 255 255 255 128) (fun t => t.res[0]) = some 1 := by decide
/-- Q1i. -/
theorem test_quant2 : after .quant2 (withArgs 64 128 0 255) (fun t => t.res[0]) = some 3 := by decide
/-- Q1i: four different fields. -/
theorem test_quant8 : after .quant8 (withArgs 64 128 0 255) (fun t => t.res[0]) = some 0xC9 := by decide
/-- P4, `COLOR 2` on a OneBit image: the sentinel. -/
theorem test_color :
    after .color (small 1 0) (fun t => t.res) = some #v[255, 255, 255, 255] ∧
    after .color (small 2 0) (fun t => t.res) = some #v[0, 0, 0, 0] := by decide
/-- Q7. -/
theorem test_defcolor : after .defcolor (withArgs 2 0xE4) (fun t => t.res) = some #v[0, 85, 170, 255] := by decide
/-- Q10. -/
theorem test_loaddefpal :
    after .loaddefpal (small 1 0) (fun t => (palEntry t.palram 2, t.imgValid, t.depth)) =
      some ({ r := 170, g := 170, b := 170, a := 255 }, false, .oneBit) := by decide

/-! The ImageCodec and BUILD. -/

/-- D19: the padding bits are ignored. -/
theorem test_decode :
    after .decode (stream [0x22, 0x00, 0x10, 0x01, 0xFC, 0x0F, 0x80])
      (fun t => (t.palEmb, t.width, palEntry t.palram 0, pixEntry t.pixram 0, t.pos)) =
      some (true, 1, { r := 255, g := 255, b := 255, a := 255 }, 1, 105) := by decide
/-- D8: the mode is tested before the dimensions are missed. -/
theorem test_decode_invalid_mode : after .decode (stream [0xFF]) (fun t => (t.err, t.pos)) = some (5, 64) := by decide
/-- S2's layout: the second pixel of the first row. -/
theorem test_colorat : after .colorat (small 1 0) (fun t => t.res) = some #v[255, 255, 255, 255] := by decide
/-- E2. -/
theorem test_colorat_range : after .colorat (small 0 1) errOf = some (15, 5) := by decide
/-- E6: `(0,1,0,0,1,1)` has 13 bytes. -/
theorem test_bytecount :
    after .bytecount { small 0 0 with palEmb := true, width := 1 } (fun t => t.res[0]) = some 13 := by decide
/-- 44_imagecodec_encode.md R233 to R238 on two pixels: the last byte holds `01` and six padding bits; OUT_LEN, POS. -/
theorem test_encode :
    after .encode (small 0 0) (fun t => (bufByte t.buf 6, bufByte t.buf 9, bufByte t.buf 11, t.outLen, t.pos)) =
      some (0x4F, 0x20, 0x40, 12, 96) := by decide
/-- E5. -/
theorem test_encode_operand_first : after .encode (withArgs 2) errOf = some (15, 10) := by decide
/-- H3. -/
theorem test_build :
    after .build { withArgs 1 0 0 0 1 1 with pixram := [(0, 2)] } (fun t => (t.imgValid, t.depth, t.width)) =
      some (true, .twoBit, 1) := by decide
/-- H2. -/
theorem test_build_pixel_range :
    after .build { withArgs 0 0 0 0 1 1 with pixram := [(0, 2)], imgValid := true } (fun t => (errOf t, t.imgValid)) =
      some ((15, 7), false) := by decide

/-! The host. -/

/-- 10_state.md R21. -/
theorem test_host_reads_buf :
    portRead (.buf 1) (withBuf [0xA5, 0xC3]) = .ok 0xC3 ∧
    portRead (.buf 2) (withBuf [0xA5, 0xC3]) = .error (.noSuchBufByte 2) := ⟨rfl, rfl⟩

/-! Witnesses. `witness_<Statement>` shows, for each clause of that statement that has hypotheses, a state and operands that meet
them all, at a boundary of their range where there is one. -/

/-- An instruction answers a next state of which `P` holds. -/
def endsWith (i : Instr) (s : State) (P : State → Bool) : Bool :=
  match exec i s with
  | .next t => P t
  | .fault _ => false
  | .refused _ => false

theorem endsWith_next {i : Instr} {s : State} {P : State → Bool} (h : endsWith i s P = true) :
    ∃ t, exec i s = .next t ∧ P t = true := by
  unfold endsWith at h
  split at h
  · exact ⟨_, ‹_›, h⟩
  · simp at h
  · simp at h

/-- The small image with a coming action of the host. -/
def hostDoes (a : PortAction) : State := { small 0 0 with script := [a] }

theorem small_inv (a0 a1 : Word) (script : List PortAction) (valid : Bool) :
    Inv { small a0 a1 with script := script, imgValid := valid } where
  bufWf := ⟨List.Pairwise.nil, by simp [small, withArgs, State.reset]⟩
  palWf := by simp only [small]; decide
  pixWf := by simp only [small]; decide
  bufBelow := by simp [small, withArgs, State.reset]
  palBelow := by simp only [small]; decide
  pixBelow := by simp only [small]; decide
  lenMax := by simp [small, withArgs, State.reset]
  image := by
    intro _ k hk
    have : k < 2 := hk
    change (pixEntry [(1, 1)] k).toNat < colorCountFor .oneBit
    interval_cases k <;> decide
  errLegal := .inl ⟨.inl rfl, rfl⟩
  idle := rfl
  noVars := rfl

theorem witness_ResetHoldsTheSpecValues : (255 : Nat) < colorCountFor .eightBit := by decide
theorem witness_IdleBlockWaits : (small 0 0).script = [] := by decide
theorem witness_StepRunsTheDecodedCommand :
    (hostDoes (.writeCmd 0x34)).script = .writeCmd 0x34 :: [] ∧ decodeOpcode 0x34 = some .build ∧
    decodeTableWord 8 0x01 = some .newcursor := by decide
theorem witness_IllegalOpcodeRaisesBadCommand :
    (hostDoes (.writeCmd 0x35)).script = .writeCmd 0x35 :: [] ∧
    (0x35 : Byte) ∉ ([0x01, 0x02, 0x03, 0x04, 0x10, 0x11, 0x12, 0x13, 0x20, 0x21, 0x22, 0x23, 0x24, 0x25,
           0x30, 0x31, 0x32, 0x33, 0x34] : List Byte) := by decide
theorem witness_EncodingsRoundTrip : decodeOpcode 0x34 = some .build := by decide
theorem witness_HostWritesDoWhatTheyName :
    (Inv (hostDoes (.writeBuf 16770059 0xFF)) ∧ 16770059 < (hostDoes (.writeBuf 16770059 0xFF)).bufMax) ∧
    (Inv (hostDoes (.writeBufLen 16770060)) ∧ 16770060 ≤ (hostDoes (.writeBufLen 16770060)).bufMax) ∧
    Inv (hostDoes (.writePal 255 { r := 1, g := 2, b := 3, a := 4 })) ∧
    (Inv (hostDoes (.writePix 16769024 0xFF)) ∧ 16769024 < pixMax) ∧
    Inv (hostDoes (.writeArg 5 0xFFFFFFFF)) ∧
    (Inv (hostDoes (.read .bufLen)) ∧ portRead .bufLen (hostDoes (.read .bufLen)) = .ok 0) :=
  ⟨⟨small_inv _ _ _ _, by decide⟩, ⟨small_inv _ _ _ _, by decide⟩, small_inv _ _ _ _, ⟨small_inv _ _ _ _, by decide⟩,
   small_inv _ _ _ _, small_inv _ _ _ _, rfl⟩
theorem witness_StepStopsOnlyForTheHost :
    NextActionAllowed (hostDoes (.writeBufLen 16770060)) ∧ ¬ NextActionAllowed (hostDoes (.writeBufLen 16770061)) := by
  simp [NextActionAllowed, ActionAllowed, hostDoes, small, withArgs, State.reset, Config.bufMaxAtReset]
theorem witness_InvariantKeptByEveryStep :
    Inv (hostDoes (.writeBufLen 16770060)) ∧
    ∃ t, step (hostDoes (.writeBufLen 16770060)) = .next t ∧ t.bufLen = 16770060 :=
  ⟨small_inv _ _ _ _, _, rfl, rfl⟩
theorem witness_CommandsKeepPosInsideTheBuffer :
    Instr.readbits.isCommand = true ∧ (withBuf [0xA5, 0xC3] 9 7).pos ≤ 8 * (withBuf [0xA5, 0xC3] 9 7).bufLen ∧
    ∃ t, exec .readbits (withBuf [0xA5, 0xC3] 9 7) = .next t ∧ decide (t.pos = 16) = true :=
  ⟨by decide, by decide, endsWith_next (by decide)⟩
/-- A command that every clause but the ones about RES covers, and one for those. -/
theorem witness_CommandsTouchOnlyTheirRowOfR44 :
    Instr.colorcountfor.isCommand = true ∧ Instr.newcursor.isCommand = true ∧
    Instr.colorcountfor ∉ [Instr.newcursor, .readbits, .readbyte, .writebits, .decode, .encode] ∧
    Instr.colorcountfor ∉ [Instr.loaddefpal, .decode, .build] ∧
    Instr.colorcountfor ∉ [Instr.mfDecode, .color, .defcolor, .colorat] ∧
    Instr.newcursor ∈ [Instr.newcursor, .writebits, .loaddefpal, .decode, .build] ∧
    (∃ t, exec .colorcountfor (withArgs 2) = .next t ∧ decide (t.err = 0) = true) ∧
    (∃ t, exec .newcursor (withArgs 2) = .next t ∧ decide (t.err = 0) = true) :=
  ⟨by decide, by decide, by decide, by decide, by decide, by decide, endsWith_next (by decide), endsWith_next (by decide)⟩
theorem witness_CommandsIgnoreTheLastError : Instr.encode.isCommand = true := by decide
/-- B16. -/
theorem witness_RequiredSizeExceedsActualSize :
    Instr.writebits.isCommand = true ∧ (withBuf [0x00] 8 0 1).bufLen + 4 < 2 ^ 32 ∧
    ceil8 ((withBuf [0x00] 8 0 1).pos + 32) < 2 ^ 32 ∧
    ∃ t, exec .writebits (withBuf [0x00] 8 0 1) = .next t ∧ decide (t.err = 8) = true :=
  ⟨by decide, by decide, by decide, endsWith_next (by decide)⟩
/-- B16, H2, E4. -/
theorem witness_RaisedCommandsChangeNothingElse :
    (Instr.writebits.isCommand = true ∧ Instr.writebits ≠ .decode ∧ Instr.writebits ≠ .encode ∧
      ∃ t, exec .writebits (withBuf [0x00] 8 0 1) = .next t ∧ decide (t.err ≠ 0) = true) ∧
    (Instr.build.isCommand = true ∧ Instr.build ≠ .decode ∧ Instr.build ≠ .encode ∧
      ∃ t, exec .build { withArgs 0 0 0 0 1 1 with pixram := [(0, 2)], imgValid := true } = .next t ∧
        decide (t.err ≠ 0) = true) ∧
    (Instr.encode.isCommand = true ∧ Instr.encode ≠ .decode ∧ Inv { small 1 0 with script := [], imgValid := false } ∧
      ∃ t, exec .encode { small 1 0 with script := [], imgValid := false } = .next t ∧ decide (t.err ≠ 0) = true) :=
  ⟨⟨by decide, by decide, by decide, endsWith_next (by decide)⟩, ⟨by decide, by decide, by decide, endsWith_next (by decide)⟩,
   ⟨by decide, by decide, small_inv _ _ _ _, endsWith_next (by decide)⟩⟩
theorem witness_FirstCommandAfterReset :
    (1 ≤ (#v[32, 0, 0, 0, 0, 0] : Vector Word 6)[0].toNat ∧ (#v[32, 0, 0, 0, 0, 0] : Vector Word 6)[0].toNat ≤ 32) ∧
    (1 ≤ (#v[0xFFFFFFFF, 32, 0, 0, 0, 0] : Vector Word 6)[1].toNat ∧
      (#v[0xFFFFFFFF, 32, 0, 0, 0, 0] : Vector Word 6)[1].toNat ≤ 32 ∧
      (#v[0xFFFFFFFF, 32, 0, 0, 0, 0] : Vector Word 6)[0].toNat < 2 ^ 32) ∧
    (#v[1, 0, 0, 0, 0, 0] : Vector Word 6)[0].toNat ≤ 1 ∧
    (BuildOperands { State.reset with arg := #v[2, 1, 2, 1, 4095, 0] } ∧
      (#v[2, 1, 2, 1, 4095, 0] : Vector Word 6)[4].toNat * (#v[2, 1, 2, 1, 4095, 0] : Vector Word 6)[5].toNat = 0) := by
  unfold BuildOperands; decide
/-- B8, B10, B11, B6. -/
theorem witness_ReadbitsReturnsTheField :
    (1 ≤ (withBuf [0xA5, 0xC3] 9 7).arg[0].toNat ∧ (withBuf [0xA5, 0xC3] 9 7).arg[0].toNat ≤ 32 ∧
      (withBuf [0xA5, 0xC3] 9 7).pos + (withBuf [0xA5, 0xC3] 9 7).arg[0].toNat ≤ 8 * (withBuf [0xA5, 0xC3] 9 7).bufLen) ∧
    (withArgs 0).arg[0].toNat < 1 ∧ 32 < (withArgs 33).arg[0].toNat ∧
    (1 ≤ (withBuf [0xA5, 0xC3] 16 1).arg[0].toNat ∧ (withBuf [0xA5, 0xC3] 16 1).arg[0].toNat ≤ 32 ∧
      8 * (withBuf [0xA5, 0xC3] 16 1).bufLen < (withBuf [0xA5, 0xC3] 16 1).pos + (withBuf [0xA5, 0xC3] 16 1).arg[0].toNat) := by
  decide
theorem witness_ReadbyteIsReadbitsOfEight :
    (withBuf [0xA5, 0xC3] 8).pos + 8 ≤ 8 * (withBuf [0xA5, 0xC3] 8).bufLen ∧
    8 * (withBuf [0xA5, 0xC3] 9).bufLen < (withBuf [0xA5, 0xC3] 9).pos + 8 := by decide
/-- B20; B19 and a count of 33; B17; B16. -/
theorem witness_WritebitsWritesTheField :
    (1 ≤ (withBuf [0, 0, 0, 0] 0 0xFFFFFFFF 32).arg[1].toNat ∧ (withBuf [0, 0, 0, 0] 0 0xFFFFFFFF 32).arg[1].toNat ≤ 32 ∧
      (withBuf [0, 0, 0, 0] 0 0xFFFFFFFF 32).arg[0].toNat < 2 ^ 32 ∧
      (withBuf [0, 0, 0, 0] 0 0xFFFFFFFF 32).pos + 32 ≤ 8 * (withBuf [0, 0, 0, 0] 0 0xFFFFFFFF 32).bufLen ∧
      Memory.wf unlistedByte (withBuf [0, 0, 0, 0] 0 0xFFFFFFFF 32).buf) ∧
    (withArgs 1 0).arg[1].toNat < 1 ∧ 32 < (withArgs 1 33).arg[1].toNat ∧
    (1 ≤ (withArgs 4 2).arg[1].toNat ∧ (withArgs 4 2).arg[1].toNat ≤ 32 ∧ 2 ^ 2 ≤ (withArgs 4 2).arg[0].toNat) ∧
    (1 ≤ (withBuf [0] 8 0 1).arg[1].toNat ∧ (withBuf [0] 8 0 1).arg[1].toNat ≤ 32 ∧ (withBuf [0] 8 0 1).arg[0].toNat < 2 ^ 1 ∧
      8 * (withBuf [0] 8 0 1).bufLen < (withBuf [0] 8 0 1).pos + (withBuf [0] 8 0 1).arg[1].toNat) := by decide
/-- B5's cut. -/
theorem witness_FieldsConcatenate :
    (1 ≤ 31 ∧ 1 ≤ 1 ∧ 31 + 1 ≤ 32 ∧ (withBuf [1, 2, 3, 4]).pos + 31 + 1 ≤ 8 * (withBuf [1, 2, 3, 4]).bufLen) ∧
    0x7FFFFFFF < 2 ^ 31 ∧ 1 < 2 ^ 1 := by decide
theorem witness_WrittenFieldReadsBack :
    Memory.wf unlistedByte (withBuf [1, 2, 3, 4]).buf ∧ 1 ≤ 32 ∧ 32 ≤ 32 ∧ 0xFFFFFFFF < 2 ^ 32 ∧
    (withBuf [1, 2, 3, 4]).pos + 32 ≤ 8 * (withBuf [1, 2, 3, 4]).bufLen := by decide
theorem witness_MfDecodeTakesTheByteApart : (withArgs 255).arg[0].toNat ≤ 255 ∧ 255 < (withArgs 256).arg[0].toNat := by decide
/-- M9, and M11 and M12 by their first bad operand. -/
theorem witness_MfEncodeJoinsTheFields :
    ((withArgs 2 1 2 1).arg[0].toNat ≤ 2 ∧ (withArgs 2 1 2 1).arg[1].toNat ≤ 1 ∧ (withArgs 2 1 2 1).arg[2].toNat ≤ 2 ∧
      (withArgs 2 1 2 1).arg[3].toNat ≤ 1) ∧
    2 < (withArgs 3 2 3 2).arg[0].toNat ∧ ((withArgs 2 2 3 2).arg[0].toNat ≤ 2 ∧ 1 < (withArgs 2 2 3 2).arg[1].toNat) ∧
    ((withArgs 2 1 3 2).arg[0].toNat ≤ 2 ∧ (withArgs 2 1 3 2).arg[1].toNat ≤ 1 ∧ 2 < (withArgs 2 1 3 2).arg[2].toNat) ∧
    ((withArgs 2 1 2 2).arg[0].toNat ≤ 2 ∧ (withArgs 2 1 2 2).arg[1].toNat ≤ 1 ∧ (withArgs 2 1 2 2).arg[2].toNat ≤ 2 ∧
      1 < (withArgs 2 1 2 2).arg[3].toNat) := by decide
theorem witness_CountCommandsAnswerTheTables : (withArgs 2).arg[0].toNat ≤ 2 ∧ 2 < (withArgs 3).arg[0].toNat := by decide
theorem witness_ModeByteRoundTrips :
    ((withArgs 2 1 2 1).arg[0].toNat ≤ 2 ∧ (withArgs 2 1 2 1).arg[1].toNat ≤ 1 ∧ (withArgs 2 1 2 1).arg[2].toNat ≤ 2 ∧
      (withArgs 2 1 2 1).arg[3].toNat ≤ 1) ∧
    ((withArgs 0xBD).arg[0].toNat ≤ 255 ∧ (withArgs 0xBD).arg[0].toNat / 64 ≠ 3 ∧ (withArgs 0xBD).arg[0].toNat / 2 % 4 ≠ 3) := by
  decide
theorem witness_ModeByteRunsItsFiveRows :
    ((0xBD : Byte).toNat / 64 ≠ 3 ∧ (0xBD : Byte).toNat / 2 % 4 ≠ 3) ∧ (0xC0 : Byte).toNat / 64 = 3 ∧
    (0x06 : Byte).toNat / 2 % 4 = 3 := by decide
theorem witness_QuantOneFollowsItsRule :
    ChannelOperands (withArgs 255 255 255 255) ∧ ¬ ChannelOperands (withArgs 0 0 0 256) := by
  unfold ChannelOperands; decide
theorem witness_QuantTwoFollowsItsRule :
    ChannelOperands (withArgs 255 255 255 255) ∧ ¬ ChannelOperands (withArgs 0 0 0 256) := by
  unfold ChannelOperands; decide
theorem witness_QuantEightFollowsItsRule :
    ChannelOperands (withArgs 255 255 255 255) ∧ ¬ ChannelOperands (withArgs 256 0 0 0) := by
  unfold ChannelOperands; decide
/-- Two states with different palettes. -/
theorem witness_QuantizersReadOnlyTheirOperands :
    Instr.quant8 ∈ [Instr.quant1, .quant2, .quant8] ∧ ChannelOperands (withArgs 255 1) ∧
    (small 255 1).arg[0] = (withArgs 255 1).arg[0] ∧ (small 255 1).arg[1] = (withArgs 255 1).arg[1] ∧
    (small 255 1).arg[2] = (withArgs 255 1).arg[2] ∧ (small 255 1).arg[3] = (withArgs 255 1).arg[3] := by
  unfold ChannelOperands; decide
theorem witness_ColorLooksUpTheCurrentPalette :
    ((small 1 0).imgValid = true ∧ (small 1 0).arg[0].toNat < colorCountFor (small 1 0).depth) ∧
    ((small 2 0).imgValid = true ∧ colorCountFor (small 2 0).depth ≤ (small 2 0).arg[0].toNat) ∧
    (withArgs 0).imgValid = false := by decide
theorem witness_DefcolorLooksUpTheDefaultPalettes :
    ((withArgs 2 255).arg[0].toNat ≤ 2 ∧ (withArgs 2 255).arg[1].toNat < ccOf (withArgs 2 255).arg[0].toNat) ∧
    ((withArgs 2 256).arg[0].toNat ≤ 2 ∧ ccOf (withArgs 2 256).arg[0].toNat ≤ (withArgs 2 256).arg[1].toNat) ∧
    2 < (withArgs 3 0).arg[0].toNat := by decide
theorem witness_LoaddefpalCopiesTheDefaultPalette :
    ((small 1 0).arg[0].toNat ≤ 2 ∧ Memory.wf unlistedColor (small 1 0).palram ∧ 3 < ccOf (small 1 0).arg[0].toNat ∧
      ccOf (small 1 0).arg[0].toNat ≤ 4) ∧ 2 < (small 3 0).arg[0].toNat := by decide
theorem witness_DefaultPalettesQuantizeToTheirIndices : 2 ≤ 2 ∧ 255 < ccOf 2 := by decide
theorem witness_PaletteEntryReadsBack :
    Memory.wf unlistedByte (withBuf [1, 2, 3, 4]).buf ∧
    (withBuf [1, 2, 3, 4]).pos + channelCountFor .rgba * bitsPerChannelFor .eightBit ≤ 8 * (withBuf [1, 2, 3, 4]).bufLen := by
  decide

/-- A stream with an embedded palette, reserved bits `11`, padding bits `1111`, and a byte after its end (D19, D21, D23). -/
def sampleStream : State := stream [0x3A, 0x00, 0x10, 0x01, 0xFC, 0x0F, 0x80, 0xAA]

theorem sampleStream_accepted : DecodeAccepts sampleStream.buf sampleStream.bufLen := by
  unfold DecodeAccepts HasSignature; decide

theorem witness_DecodeBuildsTheStreamsImage :
    Memory.wf unlistedColor sampleStream.palram ∧ Memory.wf unlistedByte sampleStream.pixram ∧
    DecodeAccepts sampleStream.buf sampleStream.bufLen := ⟨by decide, by decide, sampleStream_accepted⟩
theorem witness_DecodeSucceedsExactlyOnWholeStreams :
    (DecodeAccepts sampleStream.buf sampleStream.bufLen ∧ ∃ t, exec .decode sampleStream = .next t ∧ decide (t.err = 0) = true) ∧
    (∃ t, exec .decode (stream [0xC0]) = .next t ∧ decide (t.err ≠ 0) = true) :=
  ⟨⟨sampleStream_accepted, endsWith_next (by decide)⟩, endsWith_next (by decide)⟩
/-- D2, D4. -/
theorem witness_DecodeRejectsTheSignature :
    (withBuf [0x49, 0x4D, 0x52, 0x45, 0x54, 0x52]).bufLen < 7 ∧
    7 ≤ (withBuf [0x49, 0x4D, 0x52, 0x45, 0x54, 0x52, 0x58]).bufLen ∧
    ¬ HasSignature (withBuf [0x49, 0x4D, 0x52, 0x45, 0x54, 0x52, 0x58]).buf := by
  unfold HasSignature; decide
/-- D5, D8, D7. -/
theorem witness_DecodeRejectsTheModeByte :
    (HasSignature (stream []).buf ∧ (stream []).bufLen = 7) ∧
    (HasSignature (stream [0xFF]).buf ∧ 8 ≤ (stream [0xFF]).bufLen ∧ streamDepth (stream [0xFF]).buf = 3) ∧
    (HasSignature (stream [0x06]).buf ∧ 8 ≤ (stream [0x06]).bufLen ∧ streamLayout (stream [0x06]).buf = 3) := by
  unfold HasSignature; decide
/-- D9, D10. -/
theorem witness_DecodeRejectsShortDimensions :
    (HasSignature (stream [0]).buf ∧ streamDepth (stream [0]).buf ≠ 3 ∧ streamLayout (stream [0]).buf ≠ 3 ∧
      (stream [0]).bufLen = 8) ∧
    (HasSignature (stream [0, 0]).buf ∧ streamDepth (stream [0, 0]).buf ≠ 3 ∧ streamLayout (stream [0, 0]).buf ≠ 3 ∧
      (stream [0, 0]).bufLen = 9) ∧
    (HasSignature (stream [0, 0, 0x10]).buf ∧ streamDepth (stream [0, 0, 0x10]).buf ≠ 3 ∧
      streamLayout (stream [0, 0, 0x10]).buf ≠ 3 ∧ (stream [0, 0, 0x10]).bufLen = 10) := by
  unfold HasSignature; decide
/-- D18. -/
theorem witness_DecodeRejectsAShortPalette :
    HasSignature (stream [0x22, 0x00, 0x10, 0x01, 0xFC]).buf ∧ streamDepth (stream [0x22, 0x00, 0x10, 0x01, 0xFC]).buf ≠ 3 ∧
    streamLayout (stream [0x22, 0x00, 0x10, 0x01, 0xFC]).buf ≠ 3 ∧ 11 ≤ (stream [0x22, 0x00, 0x10, 0x01, 0xFC]).bufLen ∧
    8 * (stream [0x22, 0x00, 0x10, 0x01, 0xFC]).bufLen < 88 + streamPaletteBits (stream [0x22, 0x00, 0x10, 0x01, 0xFC]).buf := by
  unfold HasSignature; decide
/-- S4. -/
theorem witness_DecodeRejectsAShortPixelPlane :
    HasSignature (stream [0x00, 0x00, 0x30, 0x03, 0xFF]).buf ∧ streamDepth (stream [0x00, 0x00, 0x30, 0x03, 0xFF]).buf ≠ 3 ∧
    streamLayout (stream [0x00, 0x00, 0x30, 0x03, 0xFF]).buf ≠ 3 ∧
    streamP0 (stream [0x00, 0x00, 0x30, 0x03, 0xFF]).buf ≤ 8 * (stream [0x00, 0x00, 0x30, 0x03, 0xFF]).bufLen ∧
    8 * (stream [0x00, 0x00, 0x30, 0x03, 0xFF]).bufLen < streamEnd (stream [0x00, 0x00, 0x30, 0x03, 0xFF]).buf := by
  unfold HasSignature; decide
theorem witness_FailedDecodeLeavesNoImage :
    ∃ t, exec .decode (stream [0x06]) = .next t ∧ decide (t.err ≠ 0) = true := endsWith_next (by decide)

/-- The bytes of `sampleStream` with all its spare bits zero and another byte after its end. -/
def cleanedStream : State := stream [0x22, 0x00, 0x10, 0x01, 0xFC, 0x00, 0x80, 0x55]

theorem witness_DecodeIgnoresSpareBits :
    DecodeAccepts sampleStream.buf sampleStream.bufLen ∧ sampleStream.buf ≠ cleanedStream.buf ∧
    (∀ p, p < streamEnd sampleStream.buf → p ≠ 59 → p ≠ 60 →
      ¬ (88 + streamPaletteBits sampleStream.buf ≤ p ∧ p < streamP0 sampleStream.buf) →
      bufBit cleanedStream.buf p = bufBit sampleStream.buf p) ∧
    ∃ t, exec .decode sampleStream = .next t ∧ decide (t.err = 0) = true :=
  ⟨sampleStream_accepted, by decide, by
    have h : streamEnd sampleStream.buf = 105 := by decide
    have h' : 88 + streamPaletteBits sampleStream.buf = 100 := by decide
    have h'' : streamP0 sampleStream.buf = 104 := by decide
    rw [h, h', h'']; decide, endsWith_next (by decide)⟩
/-- The last pixel of the image; a pixel that is no index of the palette; the first coordinates outside; no image. -/
theorem witness_ColoratResolvesThePixel :
    ((small 1 0).imgValid = true ∧ (small 1 0).arg[0].toNat < (small 1 0).width.toNat ∧
      (small 1 0).arg[1].toNat < (small 1 0).height.toNat ∧
      (pixEntry (small 1 0).pixram ((small 1 0).arg[1].toNat * (small 1 0).width.toNat + (small 1 0).arg[0].toNat)).toNat <
        colorCountFor (small 1 0).depth) ∧
    colorCountFor (small 1 0).depth ≤ (pixEntry [(1, 2)]
      ((small 1 0).arg[1].toNat * (small 1 0).width.toNat + (small 1 0).arg[0].toNat)).toNat ∧
    (small 2 0).width.toNat ≤ (small 2 0).arg[0].toNat ∧ (small 0 1).height.toNat ≤ (small 0 1).arg[1].toNat ∧
    (withArgs 0).imgValid = false := by decide
theorem witness_BytecountIsTheSizeFormula : (small 0 0).imgValid = true ∧ (withArgs 0).imgValid = false := by decide
/-- Each check of ENCODE: E5, E4, a target one byte short, a BUF_MAX one byte short (E8, E11). -/
theorem witness_EncodeChecksBeforeItWrites :
    1 < (withArgs 2).arg[0].toNat ∧ ((withArgs 1).arg[0].toNat ≤ 1 ∧ (withArgs 1).imgValid = false) ∧
    ((small 1 0).arg[0].toNat = 1 ∧ (small 1 0).imgValid = true ∧ 11 < (small 1 0).byteCount) ∧
    ((small 0 0).arg[0].toNat = 0 ∧ (small 0 0).imgValid = true ∧ 11 < (small 0 0).byteCount) := by decide

theorem small_encodes : EncodeAccepts { small 0 0 with script := [], imgValid := true } := ⟨rfl, .inr ⟨by decide, by decide⟩⟩

/-- With a target exactly long enough, and without one. -/
theorem witness_EncodeCompletesOnceChecked :
    (Inv { small 0 0 with script := [], imgValid := true } ∧ EncodeAccepts { small 0 0 with script := [], imgValid := true }) ∧
    EncodeAccepts { small 1 0 with bufLen := 12 } :=
  ⟨⟨small_inv _ _ _ _, small_encodes⟩, rfl, .inl ⟨by decide, by decide⟩⟩
theorem witness_EncodeWritesTheStream :
    Inv { small 0 0 with script := [], imgValid := true } ∧ EncodeAccepts { small 0 0 with script := [], imgValid := true } :=
  ⟨small_inv _ _ _ _, small_encodes⟩
theorem witness_DecodeUndoesEncode :
    Inv { small 0 0 with script := [], imgValid := true } ∧ EncodeAccepts { small 0 0 with script := [], imgValid := true } :=
  ⟨small_inv _ _ _ _, small_encodes⟩
theorem sampleStream_inv : Inv sampleStream where
  bufWf := by decide
  palWf := by decide
  pixWf := by decide
  bufBelow := by decide
  palBelow := by decide
  pixBelow := by decide
  lenMax := by decide
  image := by intro h; exact absurd h (by decide)
  errLegal := .inl ⟨.inl rfl, rfl⟩
  idle := rfl
  noVars := rfl
/-- A stream whose spare bits are not all zero, and one whose spare bits are. -/
theorem witness_EncodeUndoesDecode :
    Inv sampleStream ∧ DecodeAccepts sampleStream.buf sampleStream.bufLen ∧ ¬ SpareBitsZero sampleStream.buf ∧
    streamReserved cleanedStream.buf = 0 := ⟨sampleStream_inv, sampleStream_accepted, fun h => absurd h.1 (by decide), by decide⟩
theorem witness_BuildMakesACheckedImage :
    (BuildOperands (withArgs 2 1 2 1 4095 0) ∧ ∀ k, k < (withArgs 2 1 2 1 4095 0).arg[4].toNat *
      (withArgs 2 1 2 1 4095 0).arg[5].toNat → (pixEntry [] k).toNat < ccOf 2) ∧
    (BuildOperands (withArgs 0 0 0 0 1 1) ∧ ∃ k, k < (withArgs 0 0 0 0 1 1).arg[4].toNat *
      (withArgs 0 0 0 0 1 1).arg[5].toNat ∧ ccOf 0 ≤ (pixEntry [(0, 2)] k).toNat) ∧
    2 < (withArgs 3 2 3 2 5000 5000).arg[0].toNat ∧
    ((withArgs 2 2 3 2 5000 5000).arg[0].toNat ≤ 2 ∧ 1 < (withArgs 2 2 3 2 5000 5000).arg[1].toNat) ∧
    ((withArgs 2 1 3 2 5000 5000).arg[0].toNat ≤ 2 ∧ (withArgs 2 1 3 2 5000 5000).arg[1].toNat ≤ 1 ∧
      2 < (withArgs 2 1 3 2 5000 5000).arg[2].toNat) ∧
    ((withArgs 2 1 2 2 5000 5000).arg[2].toNat ≤ 2 ∧ 1 < (withArgs 2 1 2 2 5000 5000).arg[3].toNat) ∧
    ((withArgs 2 1 2 1 4096 1).arg[3].toNat ≤ 1 ∧ 4095 < (withArgs 2 1 2 1 4096 1).arg[4].toNat) ∧
    4095 < (withArgs 0 0 0 0 4095 4096).arg[5].toNat := by
  refine ⟨⟨by unfold BuildOperands; decide, fun k hk => absurd hk (by simp [withArgs])⟩,
    ⟨by unfold BuildOperands; decide, 0, by decide, by decide⟩, by decide⟩

/-- The last byte of a buffer of two, and the first that does not exist. -/
theorem witness_HostReadsBufBelowItsLength :
    ({ withBuf [0xA5, 0xC3] with script := [.read (.buf 1)] }.script = .read (.buf 1) :: [] ∧
      1 < (withBuf [0xA5, 0xC3]).bufLen) ∧
    ({ withBuf [0xA5, 0xC3] with script := [.read (.buf 2)] }.script = .read (.buf 2) :: [] ∧
      (withBuf [0xA5, 0xC3]).bufLen ≤ 2) := by decide

end Sys2Proof.Tests
end

section
/-! PROOFS. What a command's run does up to its end, sub-step by sub-step: the registers of its row of the table of
10_state.md R44, and the invariants it keeps. -/

namespace Sys2Proof.Machine

/-! The relation. -/

/-- BUF is canonical, within BUF_MAX, and so is BUF_LEN. -/
def BufSound (s : State) : Prop :=
  Memory.wf unlistedByte s.buf ∧ Memory.below s.bufMax s.buf ∧ s.bufLen ≤ s.bufMax

/-- PALRAM is canonical and has 256 entries. -/
def PalSound (s : State) : Prop := Memory.wf unlistedColor s.palram ∧ Memory.below 256 s.palram

/-- PIXRAM is canonical, has PIX_MAX entries, and the pixels of a valid image are indices of its palette. -/
def ImageSound (s : State) : Prop :=
  Memory.wf unlistedByte s.pixram ∧ Memory.below pixMax s.pixram ∧ (s.imgValid = true → PixelsInRange s)

/-- The part of the invariant that holds inside a command too, where SEQ is not idle. -/
def MemSound (s : State) : Prop := BufSound s ∧ PalSound s ∧ ImageSound s

theorem inv_iff {s : State} :
    Inv s ↔ MemSound s ∧ LegalErr s.err s.errSub ∧ s.seq = .idle ∧ s.tmp = StepVars.empty := by
  constructor
  · intro h
    exact ⟨⟨⟨h.bufWf, h.bufBelow, h.lenMax⟩, ⟨h.palWf, h.palBelow⟩, h.pixWf, h.pixBelow, h.image⟩,
      h.errLegal, h.idle, h.noVars⟩
  · rintro ⟨⟨⟨hb, hbb, hl⟩, ⟨hp, hpb⟩, hx, hxb, him⟩, he, hi, hv⟩
    exact ⟨hb, hp, hx, hbb, hpb, hxb, hl, him, he, hi, hv⟩

/-- POS is inside the buffer (10_state.md R23). -/
def PosInBuf (s : State) : Prop := s.pos ≤ 8 * s.bufLen

/-- The commands with a POS entry in the table of 10_state.md R44. -/
def posWriters : List Instr := [.newcursor, .readbits, .readbyte, .writebits, .decode, .encode]

/-- From `s` to `t`, only what the row of `i` in 10_state.md R44 names was written; status and RES apart. -/
structure RowKept (i : Instr) (s t : State) : Prop where
  arg      : t.arg = s.arg
  cmd      : t.cmd = s.cmd
  bufMax   : t.bufMax = s.bufMax
  script   : t.script = s.script
  buf      : i ∉ [Instr.writebits, .encode] → t.buf = s.buf
  lens     : i ≠ .encode → t.bufLen = s.bufLen ∧ t.outLen = s.outLen
  pos      : i ∉ posWriters → t.pos = s.pos
  modes    : i ∉ [Instr.decode, .build] →
    t.depth = s.depth ∧ t.palEmb = s.palEmb ∧ t.layout = s.layout ∧ t.acc = s.acc ∧
    t.width = s.width ∧ t.height = s.height
  palram   : i ∉ [Instr.loaddefpal, .decode] → t.palram = s.palram
  pixram   : i ≠ .decode → t.pixram = s.pixram
  imgValid : i ∉ [Instr.loaddefpal, .decode, .build] → t.imgValid = s.imgValid

/-- The same for RES (10_state.md R38). -/
structure ResKept (i : Instr) (s t : State) : Prop where
  all    : i ∈ [Instr.newcursor, .writebits, .loaddefpal, .decode, .build] → t.res = s.res
  others : i ∉ [Instr.mfDecode, .color, .defcolor, .colorat] → OthersOfResKept s t

/-- The same for the status and the hidden registers, which no sub-step writes but those of DECODE and ENCODE. -/
structure StatusKept (i : Instr) (s t : State) : Prop where
  err    : t.err = s.err
  errSub : t.errSub = s.errSub
  errReq : t.errReq = s.errReq
  errAct : t.errAct = s.errAct
  seq    : i ∉ [Instr.decode, .encode] → t.seq = s.seq
  tmp    : i ≠ .decode → t.tmp = s.tmp

/-- Everything sub-steps of `i` can do, before an exception they may end in is taken. -/
structure Effect (i : Instr) (s t : State) : Prop where
  row    : RowKept i s t
  res    : ResKept i s t
  status : StatusKept i s t
  mem    : MemSound s → MemSound t
  inBuf  : PosInBuf s → PosInBuf t

variable {i : Instr} {s t u : State} {α β : Type}

theorem RowKept.refl : RowKept i s s :=
  ⟨rfl, rfl, rfl, rfl, fun _ => rfl, fun _ => ⟨rfl, rfl⟩, fun _ => rfl, fun _ => ⟨rfl, rfl, rfl, rfl, rfl, rfl⟩,
    fun _ => rfl, fun _ => rfl, fun _ => rfl⟩

theorem ResKept.of_res_eq (h : t.res = s.res) : ResKept i s t := ⟨fun _ => h, fun _ => by simp [OthersOfResKept, h]⟩

theorem StatusKept.refl : StatusKept i s s := ⟨rfl, rfl, rfl, rfl, fun _ => rfl, fun _ => rfl⟩

theorem Effect.refl : Effect i s s := ⟨.refl, .of_res_eq rfl, .refl, id, id⟩

theorem RowKept.trans (h : RowKept i s t) (k : RowKept i t u) : RowKept i s u where
  arg := k.arg.trans h.arg
  cmd := k.cmd.trans h.cmd
  bufMax := k.bufMax.trans h.bufMax
  script := k.script.trans h.script
  buf hi := (k.buf hi).trans (h.buf hi)
  lens hi := by simp [k.lens hi, h.lens hi]
  pos hi := (k.pos hi).trans (h.pos hi)
  modes hi := by simp [k.modes hi, h.modes hi]
  palram hi := (k.palram hi).trans (h.palram hi)
  pixram hi := (k.pixram hi).trans (h.pixram hi)
  imgValid hi := (k.imgValid hi).trans (h.imgValid hi)

theorem OthersOfResKept.trans (h : OthersOfResKept s t) (k : OthersOfResKept t u) : OthersOfResKept s u :=
  ⟨k.1.trans h.1, k.2.1.trans h.2.1, k.2.2.trans h.2.2⟩

theorem ResKept.trans (h : ResKept i s t) (k : ResKept i t u) : ResKept i s u :=
  ⟨fun hi => (k.all hi).trans (h.all hi), fun hi => (h.others hi).trans (k.others hi)⟩

theorem StatusKept.trans (h : StatusKept i s t) (k : StatusKept i t u) : StatusKept i s u :=
  ⟨k.err.trans h.err, k.errSub.trans h.errSub, k.errReq.trans h.errReq, k.errAct.trans h.errAct,
    fun hi => (k.seq hi).trans (h.seq hi), fun hi => (k.tmp hi).trans (h.tmp hi)⟩

theorem Effect.trans (h : Effect i s t) (k : Effect i t u) : Effect i s u :=
  ⟨h.row.trans k.row, h.res.trans k.res, h.status.trans k.status, k.mem ∘ h.mem, k.inBuf ∘ h.inBuf⟩

/-! The updates of the state. -/

theorem Effect.goto (p : Phase) (hi : i ∈ [Instr.decode, .encode]) : Effect i s (s.goto p) where
  row := { RowKept.refl with }
  res := .of_res_eq rfl
  status := { StatusKept.refl with seq := fun h => absurd hi h }
  mem := id
  inBuf := id

/-- POS moves from inside the buffer to inside it. -/
theorem Effect.setPos {p : Nat} (hi : i ∈ posWriters) (hp : PosInBuf s → p ≤ 8 * s.bufLen) :
    Effect i s { s with pos := p } where
  row := { RowKept.refl with pos := fun h => absurd hi h }
  res := .of_res_eq rfl
  status := { StatusKept.refl with }
  mem := id
  inBuf := hp

/-- A field of `n` bits written in the buffer, POS after it. -/
theorem Effect.writeField {v n : Nat} (hi : i ∈ [Instr.writebits, .encode]) (hp : s.pos + n ≤ 8 * s.bufLen) :
    Effect i s ({ s with buf := memWrite s.buf s.pos v n }.advance n) where
  row := { RowKept.refl with
    buf := fun h => absurd hi h
    pos := fun h => absurd ((show [Instr.writebits, .encode] ⊆ posWriters by decide) hi) h }
  res := .of_res_eq rfl
  status := { StatusKept.refl with }
  mem := fun ⟨⟨hwf, hbelow, hlen⟩, hrest⟩ =>
    ⟨⟨wf_memWrite v n hwf, below_memWrite v n hbelow (hp.trans (Nat.mul_le_mul_left 8 hlen)), hlen⟩, hrest⟩
  inBuf := fun _ => hp

theorem Effect.setRes0 {v : Word} (hi : i ∉ [Instr.newcursor, .writebits, .loaddefpal, .decode, .build]) :
    Effect i s (s.setRes0 v) where
  row := { RowKept.refl with }
  res := ⟨fun h => absurd h hi, fun _ => by simp [OthersOfResKept]⟩
  status := { StatusKept.refl with }
  mem := id
  inBuf := id

theorem Effect.setRes4 {v0 v1 v2 v3 : Word} (hi : i ∈ [Instr.mfDecode, .color, .defcolor, .colorat]) :
    Effect i s (s.setRes4 v0 v1 v2 v3) where
  row := { RowKept.refl with }
  res := ⟨fun h => absurd h (by revert i; decide), fun h => absurd hi h⟩
  status := { StatusKept.refl with }
  mem := id
  inBuf := id

/-- The image becomes invalid. -/
theorem Effect.dropImage (hi : i ∈ [Instr.loaddefpal, .decode, .build]) : Effect i s { s with imgValid := false } where
  row := { RowKept.refl with imgValid := fun h => absurd hi h }
  res := .of_res_eq rfl
  status := { StatusKept.refl with }
  mem := fun ⟨hbuf, hpal, hwf, hbelow, _⟩ => ⟨hbuf, hpal, hwf, hbelow, fun h => by simp at h⟩
  inBuf := id

/-- DECODE's step variables take any value. -/
theorem Effect.setVars (v : StepVars) : Effect .decode s { s with tmp := v } where
  row := { RowKept.refl with }
  res := .of_res_eq rfl
  status := { StatusKept.refl with tmp := fun h => absurd rfl h }
  mem := id
  inBuf := id

/-- LOADDEFPAL's write of up to 256 entries of PALRAM, which leaves no valid image. -/
theorem Effect.loadPalette {pal : List Color} (hlen : pal.length ≤ 256) :
    Effect .loaddefpal s
      { s with imgValid := false, palram := Memory.writeAll unlistedColor 0 pal s.palram } where
  row := { RowKept.refl with imgValid := fun h => absurd (by decide) h, palram := fun h => absurd (by decide) h }
  res := .of_res_eq rfl
  status := { StatusKept.refl with }
  mem := fun ⟨hbuf, ⟨hpal, hpalBelow⟩, hwf, hbelow, _⟩ =>
    ⟨hbuf, ⟨Memory.wf_writeAll pal hpal, Memory.below_writeAll pal hpalBelow (by omega)⟩, hwf, hbelow,
      fun h => by simp at h⟩
  inBuf := id

/-- BUILD's write of the image registers, PIXRAM holding indices of the new palette. -/
theorem Effect.buildImage (d : PixelDepth) (p : Bool) (l : ChannelLayout) (a : ChannelAccuracy) (w h : BitVec 12)
    (hpix : ∀ k, k < w.toNat * h.toNat → (pixEntry s.pixram k).toNat < colorCountFor d) :
    Effect .build s
      { s with depth := d, palEmb := p, layout := l, acc := a, width := w, height := h, imgValid := true } where
  row := { RowKept.refl with modes := fun h => absurd (by decide) h, imgValid := fun h => absurd (by decide) h }
  res := .of_res_eq rfl
  status := { StatusKept.refl with }
  mem := fun ⟨hbuf, hpal, hwf, hbelow, _⟩ => ⟨hbuf, hpal, hwf, hbelow, fun _ => hpix⟩
  inBuf := id

/-! Sub-steps. -/

/-- The exceptions a command can raise: an EncodeError comes from WRITEBITS and ENCODE only (60_exceptions.md R272). -/
def RaisableBy (i : Instr) (x : Exc) : Prop :=
  i ∉ [Instr.writebits, .encode] → ∀ required actual, x ≠ .bufferTooSmall required actual

theorem RaisableBy.decode (c : DecodeCause) : RaisableBy i (.decode c) := fun _ _ _ h => by cases h

theorem RaisableBy.assert (c : AssertCause) : RaisableBy i (.assert c) := fun _ _ _ h => by cases h

theorem RaisableBy.of_writer {x : Exc} (hi : i ∈ [Instr.writebits, .encode]) : RaisableBy i x := fun h => absurd hi h

/-- However a sub-step of `i` that starts in `s` ends, its effect is one of `i`; where it is done, `Q` holds. -/
def Run.Within (i : Instr) (s : State) (Q : α → State → Prop) : Run α → Prop
  | .done a t => Effect i s t ∧ Q a t
  | .raised x t => Effect i s t ∧ RaisableBy i x

variable {P : α → Prop} {P' : β → Prop} {Q : α → State → Prop} {Q' : β → State → Prop} {r : Run α}

theorem Run.Within.after (h : Effect i s t) (hr : r.Within i t Q) : r.Within i s Q := by
  cases r with
  | done a u => exact ⟨h.trans hr.1, hr.2⟩
  | raised x u => exact ⟨h.trans hr.1, hr.2⟩

theorem Run.Within.andThen {f : α → State → Run β} (hr : r.Within i s Q)
    (hf : ∀ a t, Q a t → (f a t).Within i t Q') : (r.andThen f).Within i s Q' := by
  cases r with
  | done a u => exact (hf a u hr.2).after hr.1
  | raised x u => exact hr

theorem Run.Within.mono {R : α → State → Prop} (hr : r.Within i s Q) (h : ∀ a t, Effect i s t → Q a t → R a t) :
    r.Within i s R := by
  cases r with
  | done a u => exact ⟨hr.1, h a u hr.1 hr.2⟩
  | raised x u => exact hr

/-- A sub-step of `i` that keeps DECODE's step variables and answers a value with `P`. -/
def Run.Reads (i : Instr) (s : State) (P : α → Prop) (r : Run α) : Prop :=
  r.Within i s fun a t => t.tmp = s.tmp ∧ P a

theorem Run.Reads.within (hr : r.Reads i s P) : r.Within i s fun a t => t.tmp = s.tmp ∧ P a := hr

theorem Run.Reads.done {a : α} (h : P a) : (Run.done a s).Reads i s P := ⟨.refl, rfl, h⟩

theorem Run.Reads.andThen {f : α → State → Run β} (hr : r.Reads i s P)
    (hf : ∀ a t, P a → (f a t).Reads i t P') : (r.andThen f).Reads i s P' := by
  cases r with
  | done a u =>
    obtain ⟨heff, htmp, ha⟩ := hr
    have hu := hf a u ha
    rw [Run.Reads, htmp] at hu
    exact hu.after heff
  | raised x u => exact hr

theorem checkOperands_within (ops : List (OperandKind × Word)) :
    (checkOperands ops s).Within i s fun _ t => t = s := by
  rw [checkOperands]
  cases firstFault ops with
  | some c => exact ⟨.refl, .assert c⟩
  | none => exact ⟨.refl, rfl⟩

theorem needImage_within : (needImage s).Within i s fun _ t => t = s := by
  rw [needImage]
  split
  · exact ⟨.refl, rfl⟩
  · exact ⟨.refl, .assert _⟩

/-! Reads at POS. -/

theorem readBits_reads (hi : i ∈ posWriters) (n : Nat) (s : State) : (readBits n s).Reads i s (· < 2 ^ n) := by
  rw [readBits]
  split
  · exact ⟨.refl, .decode _⟩
  · next hroom =>
    refine ⟨.setPos hi fun hpos => ?_, rfl, memRead_lt s.buf n s.pos⟩
    simp only [PosInBuf, State.bitsLeft] at hpos hroom
    omega

theorem readByte_reads (hi : i ∈ posWriters) (s : State) : (readByte s).Reads i s fun _ => True :=
  (readBits_reads hi 8 s).andThen fun _ _ _ => .done trivial

theorem readBytes_reads (n : Nat) : ∀ s, (readBytes n s).Reads .decode s fun _ => True := by
  induction n with
  | zero => exact fun _ => .done trivial
  | succ n ih =>
    exact fun s => (readByte_reads (by decide) s).andThen fun _ t _ => (ih t).andThen fun _ _ _ => .done trivial

theorem readChannel_reads (acc : ChannelAccuracy) (s : State) :
    (readChannel acc s).Reads .decode s fun _ => True :=
  (readBits_reads (by decide) _ s).andThen fun _ _ _ => by cases acc <;> exact .done trivial

theorem readChannels_reads (acc : ChannelAccuracy) (n : Nat) :
    ∀ s, (readChannels acc n s).Reads .decode s fun _ => True := by
  induction n with
  | zero => exact fun _ => .done trivial
  | succ n ih =>
    exact fun s => (readChannel_reads acc s).andThen fun _ t _ => (ih t).andThen fun _ _ _ => .done trivial

theorem readEntry_reads (l : ChannelLayout) (acc : ChannelAccuracy) (s : State) :
    (readEntry l acc s).Reads .decode s fun _ => True :=
  (readChannels_reads acc _ s).andThen fun _ _ _ => .done trivial

theorem readEntries_reads (l : ChannelLayout) (acc : ChannelAccuracy) (n : Nat) :
    ∀ s, (readEntries l acc n s).Reads .decode s (·.length = n) := by
  induction n with
  | zero => exact fun _ => .done rfl
  | succ n ih =>
    exact fun s => (readEntry_reads l acc s).andThen fun c t _ => (ih t).andThen fun cs _ hcs => .done (by simp [hcs])

theorem readPixels_reads (bpp n : Nat) :
    ∀ s, (readPixels bpp n s).Reads .decode s fun pix => pix.length = n ∧ ∀ v ∈ pix, v.toNat < 2 ^ bpp := by
  induction n with
  | zero => exact fun _ => .done ⟨rfl, by simp⟩
  | succ n ih =>
    refine fun s => (readBits_reads (by decide) bpp s).andThen fun v t hv =>
      (ih t).andThen fun pix _ ⟨hlen, hpix⟩ => .done ⟨by simp [hlen], ?_⟩
    rintro b (_ | ⟨_, hb⟩)
    · exact (Nat.mod_le v (2 ^ 8)).trans_lt hv
    · exact hpix b hb

/-! DECODE. -/

/-- What DECODE's step variables hold once the pixels are read: a palette within PALRAM, an index of it for each pixel. -/
structure ImageRead (v : StepVars) : Prop where
  palLen : v.pal.length ≤ 256
  pixLen : v.pix.length = v.w.toNat * v.h.toNat
  inPal  : ∀ b ∈ v.pix, b.toNat < colorCountFor v.d

theorem colorCountFor_le (d : PixelDepth) : colorCountFor d ≤ 256 := by cases d <;> decide

theorem colorCountFor_eq_two_pow (d : PixelDepth) : colorCountFor d = 2 ^ bitsPerPixelFor d := by cases d <;> rfl

theorem defaultPalette_length (d : PixelDepth) : (defaultPalette d).length = colorCountFor d := by
  simp [defaultPalette]

theorem takeDepth_within (f : BitVec 2) : (takeDepth f s).Within .decode s fun _ _ => True := by
  rw [takeDepth]
  split
  · exact ⟨.setVars _, trivial⟩
  · exact ⟨.setVars _, trivial⟩
  · exact ⟨.setVars _, trivial⟩
  · exact ⟨.refl, .decode _⟩

theorem takeLayout_within (f : BitVec 2) : (takeLayout f s).Within .decode s fun _ _ => True := by
  rw [takeLayout]
  split
  · exact ⟨.setVars _, trivial⟩
  · exact ⟨.setVars _, trivial⟩
  · exact ⟨.setVars _, trivial⟩
  · exact ⟨.refl, .decode _⟩

theorem takeModeByte_within (m : Byte) : (takeModeByte m s).Within .decode s fun _ _ => True :=
  (takeDepth_within _).andThen fun _ _ _ =>
  .after (.setVars _) <| (takeLayout_within _).andThen fun _ _ _ => ⟨.setVars _, trivial⟩

theorem decodeSig_within : (decodeSig s).Within .decode s fun _ _ => True := by
  refine .after (.goto .dSig (by decide)) ?_
  rw [decodeSig]
  split
  · exact ⟨.refl, .decode _⟩
  · refine (readBytes_reads 7 _).within.andThen fun bs t _ => ?_
    split
    · exact ⟨.refl, trivial⟩
    · exact ⟨.refl, .decode _⟩

theorem decodeMode_within : (decodeMode s).Within .decode s fun _ _ => True := by
  refine .after (.goto .dMode (by decide)) ?_
  rw [decodeMode]
  split
  · exact ⟨.refl, .decode _⟩
  · exact (readByte_reads (by decide) _).within.andThen fun m t _ => takeModeByte_within m

theorem decodeDim_within : (decodeDim s).Within .decode s fun _ _ => True :=
  .after (.goto .dDim (by decide)) <|
    (readBits_reads (by decide) 12 _).within.andThen fun w t _ =>
    (readBits_reads (by decide) 12 t).within.andThen fun h u _ => ⟨.setVars _, trivial⟩

theorem Effect.alignPos : Effect .decode s s.alignPos :=
  .setPos (by decide) fun h => by simp only [PosInBuf, ceil8] at h ⊢; omega

theorem decodePal_within : (decodePal s).Within .decode s fun _ t => t.tmp.pal.length ≤ 256 := by
  refine .after (.goto .dPal (by decide)) ?_
  rw [decodePal]
  split
  · refine (readEntries_reads _ _ _ _).within.andThen fun pal t ⟨_, hpal⟩ =>
      ⟨(Effect.setVars _).trans .alignPos, ?_⟩
    exact hpal.trans_le (colorCountFor_le _)
  · exact ⟨.setVars _, (defaultPalette_length _).trans_le (colorCountFor_le _)⟩

theorem decodePix_within (hpal : s.tmp.pal.length ≤ 256) :
    (decodePix s).Within .decode s fun _ t => ImageRead t.tmp := by
  refine .after (.goto .dPix (by decide)) ?_
  rw [decodePix]
  split
  · exact ⟨.refl, .decode _⟩
  · refine (readPixels_reads _ _ _).within.andThen fun pix t ⟨htmp, hlen, hpix⟩ => ⟨.setVars _, ?_⟩
    simp only [htmp]
    exact ⟨hpal, hlen, fun b hb => colorCountFor_eq_two_pow _ ▸ hpix b hb⟩

/-- A pixel of the plane just written. -/
theorem pixEntry_writeAll {pix : List Byte} {m : List Host.Cell} (hwf : Memory.wf unlistedByte m) {k : Nat}
    (hk : k < pix.length) : pixEntry (Memory.writeAll unlistedByte 0 pix m) k = pix[k] := by
  simp [pixEntry, Memory.read_writeAll pix hwf, hk]

/-- Every image the two dimensions can state fits PIXRAM. -/
theorem dimensions_le_pixMax (w h : BitVec 12) : w.toNat * h.toNat ≤ pixMax :=
  Nat.mul_le_mul (Nat.le_of_lt_succ w.isLt) (Nat.le_of_lt_succ h.isLt)

theorem decodeDone_within (hv : ImageRead s.tmp) :
    (decodeDone s).Within .decode s fun _ t => t.seq = .idle ∧ t.tmp = StepVars.empty := by
  refine ⟨?_, rfl, rfl⟩
  constructor
  case row => constructor <;> simp [posWriters, State.goto]
  case res => exact .of_res_eq rfl
  case status => constructor <;> simp [State.goto]
  case inBuf => exact id
  case mem =>
    rintro ⟨hbuf, ⟨hpal, hpalBelow⟩, hwf, hbelow, _⟩
    have hfits : 0 + s.tmp.pix.length ≤ pixMax := by
      simpa [hv.pixLen] using dimensions_le_pixMax s.tmp.w s.tmp.h
    refine ⟨hbuf, ⟨Memory.wf_writeAll _ hpal, Memory.below_writeAll _ hpalBelow (by simpa using hv.palLen)⟩,
      Memory.wf_writeAll _ hwf, Memory.below_writeAll _ hbelow hfits, fun _ k hk => ?_⟩
    have hk' : k < s.tmp.pix.length := hk.trans_eq hv.pixLen.symm
    exact (congrArg BitVec.toNat (pixEntry_writeAll hwf hk')).trans_lt (hv.inPal _ (List.getElem_mem hk'))

theorem decodeSteps_within : (decodeSteps s).Within .decode s fun _ t => t.seq = .idle ∧ t.tmp = StepVars.empty :=
  decodeSig_within.andThen fun _ _ _ =>
  decodeMode_within.andThen fun _ _ _ =>
  decodeDim_within.andThen fun _ _ _ =>
  decodePal_within.andThen fun _ _ hpal =>
  (decodePix_within hpal).andThen fun _ _ hread =>
  decodeDone_within hread

/-! ENCODE. -/

theorem writeBits_within (hi : i ∈ [Instr.writebits, .encode]) (v n : Nat) (s : State) :
    (writeBits v n s).Within i s fun _ _ => True := by
  obtain ⟨-, h⟩ | ⟨-, -, -, h⟩ | ⟨-, -, -, -, h⟩ | ⟨-, -, -, hroom, h⟩ := writeBits_cases v n s <;> rw [h]
  · exact ⟨.refl, .of_writer hi⟩
  · exact ⟨.refl, .of_writer hi⟩
  · exact ⟨.refl, .of_writer hi⟩
  · exact ⟨.writeField hi hroom, trivial⟩

theorem writeBytes_within (bs : List Byte) : ∀ s, (writeBytes bs s).Within .encode s fun _ _ => True := by
  induction bs with
  | nil => exact fun _ => ⟨.refl, trivial⟩
  | cons b bs ih => exact fun s => (writeBits_within (by decide) _ 8 s).andThen fun _ t _ => ih t

theorem writeChannels_within (acc : ChannelAccuracy) (cs : List Byte) :
    ∀ s, (writeChannels acc cs s).Within .encode s fun _ _ => True := by
  induction cs with
  | nil => exact fun _ => ⟨.refl, trivial⟩
  | cons c cs ih => exact fun s => (writeBits_within (by decide) _ _ s).andThen fun _ t _ => ih t

theorem writeEntries_within (n : Nat) : ∀ k s, (writeEntries k n s).Within .encode s fun _ _ => True := by
  induction n with
  | zero => exact fun _ _ => ⟨.refl, trivial⟩
  | succ n ih => exact fun k s => (writeChannels_within _ _ s).andThen fun _ t _ => ih (k + 1) t

theorem writePixels_within (n : Nat) : ∀ k s, (writePixels k n s).Within .encode s fun _ _ => True := by
  induction n with
  | zero => exact fun _ _ => ⟨.refl, trivial⟩
  | succ n ih => exact fun k s => (writeBits_within (by decide) _ _ s).andThen fun _ t _ => ih (k + 1) t

theorem writePad_within : (writePad s).Within .encode s fun _ _ => True := by
  rw [writePad]
  split
  · exact writeBits_within (by decide) 0 _ s
  · exact ⟨.refl, trivial⟩

/-- ENCODE without a target takes a buffer within BUF_MAX and starts at its first bit. -/
theorem Effect.takeBuffer {n : Nat} (hn : n ≤ s.bufMax) : Effect .encode s { s with bufLen := n, pos := 0 } where
  row := { RowKept.refl with lens := fun h => absurd rfl h, pos := fun h => absurd (by decide) h }
  res := .of_res_eq rfl
  status := { StatusKept.refl with }
  mem := fun ⟨⟨hwf, hbelow, _⟩, hrest⟩ => ⟨⟨hwf, hbelow, hn⟩, hrest⟩
  inBuf := fun _ => Nat.zero_le _

theorem encodeBuffer_within (hasTarget : Bool) : (encodeBuffer hasTarget s).Within .encode s fun _ _ => True := by
  refine .after (.goto .eCheck (by decide)) ?_
  rw [encodeBuffer]
  split
  · split
    · exact ⟨.refl, .of_writer (by decide)⟩
    · exact ⟨.setPos (by decide) fun _ => Nat.zero_le _, trivial⟩
  · split
    · exact ⟨.refl, .of_writer (by decide)⟩
    · next hmax => exact ⟨.takeBuffer (Nat.le_of_not_lt hmax), trivial⟩

theorem encodeSig_within : (encodeSig s).Within .encode s fun _ _ => True :=
  .after (.goto .eSig (by decide)) (writeBytes_within sigBytes _)

theorem encodeMode_within : (encodeMode s).Within .encode s fun _ _ => True :=
  .after (.goto .eMode (by decide)) (writeBits_within (by decide) _ 8 _)

theorem encodeDim_within : (encodeDim s).Within .encode s fun _ _ => True :=
  .after (.goto .eDim (by decide)) <|
    (writeBits_within (by decide) _ 12 _).andThen fun _ t _ => writeBits_within (by decide) _ 12 t

theorem encodePal_within : (encodePal s).Within .encode s fun _ _ => True := by
  refine .after (.goto .ePal (by decide)) ?_
  rw [encodePal]
  split
  · exact (writeEntries_within _ 0 _).andThen fun _ _ _ => writePad_within
  · exact ⟨.refl, trivial⟩

theorem encodePix_within : (encodePix s).Within .encode s fun _ _ => True :=
  .after (.goto .ePix (by decide)) <| (writePixels_within _ 0 _).andThen fun _ _ _ => writePad_within

theorem encodeDone_within : (encodeDone s).Within .encode s fun _ t => t.seq = .idle := by
  refine ⟨Effect.trans (t := { s with outLen := s.byteCount, seq := .idle }) ?_ (.setRes0 (by decide)), rfl⟩
  exact ⟨{ RowKept.refl with lens := fun h => absurd rfl h }, .of_res_eq rfl,
    { StatusKept.refl with seq := fun h => absurd (by decide) h }, id, id⟩

theorem encodeSteps_within (hasTarget : Bool) : (encodeSteps hasTarget s).Within .encode s fun _ t => t.seq = .idle :=
  (encodeBuffer_within hasTarget).andThen fun _ _ _ =>
  encodeSig_within.andThen fun _ _ _ =>
  encodeMode_within.andThen fun _ _ _ =>
  encodeDim_within.andThen fun _ _ _ =>
  encodePal_within.andThen fun _ _ _ =>
  encodePix_within.andThen fun _ _ _ =>
  encodeDone_within

end Sys2Proof.Machine
end

section
/-! PROOFS. What each command does, and from it what every command and every step keep. -/

namespace Sys2Proof.Machine

variable {i : Instr} {s t : State}

/-- How the run of `i` may leave the hidden registers where it is done. -/
def HiddenReset (i : Instr) (t : State) : Prop :=
  (i ∈ [Instr.decode, .encode] → t.seq = .idle) ∧ (i = .decode → t.tmp = StepVars.empty)

/-- The outcome is that of a run of `i`, from `s` with the status cleared, that has only effects of `i`. -/
def Performs (i : Instr) (s : State) (o : Host.Outcome State Fault Refusal) : Prop :=
  ∃ r : Run Unit, o = r.finish ∧ r.Within i s.begin fun _ => HiddenReset i

theorem Performs.of_within {r : Run Unit} (h : r.Within i s.begin fun _ => HiddenReset i) : Performs i s r.finish :=
  ⟨r, rfl, h⟩

theorem HiddenReset.of_not_mem (hi : i ∉ [Instr.decode, .encode]) : HiddenReset i t :=
  ⟨fun hi' => absurd hi' hi, fun hi' => by simp [hi'] at hi⟩

theorem Run.Within.done (h : Effect i s t) (hi : i ∉ [Instr.decode, .encode]) :
    (Run.done () t).Within i s fun _ => HiddenReset i := ⟨h, .of_not_mem hi⟩

/-! One lemma a command. -/

theorem execNewcursor_performs : Performs .newcursor s (execNewcursor s) :=
  .of_within <| .done (.setPos (by decide) fun _ => Nat.zero_le _) (by decide)

theorem execReadbits_performs : Performs .readbits s (execReadbits s) :=
  .of_within <| (checkOperands_within _).andThen fun _ _ _ =>
    (readBits_reads (by decide) _ _).within.andThen fun _ _ _ => .done (.setRes0 (by decide)) (by decide)

theorem execReadbyte_performs : Performs .readbyte s (execReadbyte s) :=
  .of_within <| (readByte_reads (by decide) _).within.andThen fun _ _ _ => .done (.setRes0 (by decide)) (by decide)

theorem execWritebits_performs : Performs .writebits s (execWritebits s) :=
  .of_within <| (writeBits_within (by decide) _ _ _).mono fun _ _ _ _ => .of_not_mem (by decide)

/-- A command that, its operand checks passed, only answers in RES[0]. -/
theorem checked_setRes0_performs (ops : List (OperandKind × Word)) (v : State → Word)
    (hres : i ∉ [Instr.newcursor, .writebits, .loaddefpal, .decode, .build]) (hi : i ∉ [Instr.decode, .encode]) :
    Performs i s ((checkOperands ops s.begin).andThen fun _ s => .done () (s.setRes0 (v s))).finish :=
  .of_within <| (checkOperands_within ops).andThen fun _ _ _ => .done (.setRes0 hres) hi

theorem execMfDecode_performs : Performs .mfDecode s (execMfDecode s) :=
  .of_within <| (checkOperands_within _).andThen fun _ _ _ => .done (.setRes4 (by decide)) (by decide)

theorem execMfEncode_performs : Performs .mfEncode s (execMfEncode s) :=
  checked_setRes0_performs _ _ (by decide) (by decide)

theorem execColorcountfor_performs : Performs .colorcountfor s (execColorcountfor s) :=
  checked_setRes0_performs _ _ (by decide) (by decide)

theorem execChannelcountfor_performs : Performs .channelcountfor s (execChannelcountfor s) :=
  checked_setRes0_performs _ _ (by decide) (by decide)

theorem execQuant1_performs : Performs .quant1 s (execQuant1 s) :=
  checked_setRes0_performs _ _ (by decide) (by decide)

theorem execQuant2_performs : Performs .quant2 s (execQuant2 s) :=
  checked_setRes0_performs _ _ (by decide) (by decide)

theorem execQuant8_performs : Performs .quant8 s (execQuant8 s) :=
  checked_setRes0_performs _ _ (by decide) (by decide)

theorem execColor_performs : Performs .color s (execColor s) :=
  .of_within <| needImage_within.andThen fun _ _ _ => .done (.setRes4 (by decide)) (by decide)

theorem execDefcolor_performs : Performs .defcolor s (execDefcolor s) :=
  .of_within <| (checkOperands_within _).andThen fun _ _ _ => .done (.setRes4 (by decide)) (by decide)

theorem execLoaddefpal_performs : Performs .loaddefpal s (execLoaddefpal s) :=
  .of_within <| (checkOperands_within _).andThen fun _ _ _ =>
    .done (.loadPalette ((defaultPalette_length _).trans_le (colorCountFor_le _))) (by decide)

theorem execDecode_performs : Performs .decode s (execDecode s) := by
  refine .of_within (.after (t := { s.begin with imgValid := false, pos := 0, tmp := StepVars.empty }) ?_ ?_)
  · exact (Effect.dropImage (by decide)).trans
      ((Effect.setPos (by decide) fun _ => Nat.zero_le _).trans (.setVars _))
  · exact decodeSteps_within.mono fun _ _ _ ⟨hseq, htmp⟩ => ⟨fun _ => hseq, fun _ => htmp⟩

theorem execColorat_performs : Performs .colorat s (execColorat s) := by
  refine .of_within (needImage_within.andThen fun _ t _ => ?_)
  split
  · exact ⟨.refl, .assert _⟩
  · exact .done (.setRes4 (by decide)) (by decide)

theorem execBytecount_performs : Performs .bytecount s (execBytecount s) :=
  .of_within <| needImage_within.andThen fun _ _ _ => .done (.setRes0 (by decide)) (by decide)

theorem execEncode_performs : Performs .encode s (execEncode s) :=
  .of_within <| (checkOperands_within _).andThen fun _ _ _ =>
    needImage_within.andThen fun _ _ _ =>
    (encodeSteps_within _).mono fun _ _ _ hseq => ⟨fun _ => hseq, fun h => by cases h⟩

/-- What BUILD's pixel check tests. -/
theorem pixelsBelow_iff {cc : Nat} {m : List Host.Cell} (n : Nat) :
    ∀ {k}, pixelsBelow cc m k n = true ↔ ∀ j, k ≤ j → j < k + n → (pixEntry m j).toNat < cc := by
  induction n with
  | zero => intro k; simp [pixelsBelow]; omega
  | succ n ih =>
    intro k
    rw [pixelsBelow]
    split
    · next hk =>
      rw [ih]
      refine ⟨fun h j hkj hj => ?_, fun h j hkj hj => h j (by omega) (by omega)⟩
      rcases hkj.eq_or_lt with rfl | hkj
      · exact hk
      · exact h j hkj (by omega)
    · next hk => simpa using ⟨k, le_rfl, by omega, Nat.le_of_not_lt hk⟩

/-- The two dimensions as BUILD stores them span no more pixels than it has checked. -/
theorem setWidth_mul_setWidth_le (x y : Word) : (x.setWidth 12).toNat * (y.setWidth 12).toNat ≤ x.toNat * y.toNat := by
  simp only [BitVec.toNat_setWidth]
  exact Nat.mul_le_mul (Nat.mod_le _ _) (Nat.mod_le _ _)

theorem checkPixels_within (cc n : Nat) :
    (checkPixels cc n s).Within .build s fun _ t => t = s ∧ ∀ k, k < n → (pixEntry s.pixram k).toNat < cc := by
  rw [checkPixels]
  split
  · next h => exact ⟨.refl, rfl, fun k hk => (pixelsBelow_iff n).1 h k k.zero_le (by omega)⟩
  · exact ⟨.refl, .assert _⟩

theorem execBuild_performs : Performs .build s (execBuild s) := by
  refine .of_within ((checkOperands_within _).andThen fun _ t _ => .after (.dropImage (by decide)) ?_)
  refine (checkPixels_within _ _).andThen ?_
  rintro _ _ ⟨rfl, hpix⟩
  exact .done (.buildImage _ _ _ _ _ _ fun k hk => hpix k (hk.trans_le (setWidth_mul_setWidth_le _ _))) (by decide)

theorem exec_performs (hi : i.isCommand = true) : Performs i s (exec i s) := by
  cases i with
  | newcursor => exact execNewcursor_performs
  | readbits => exact execReadbits_performs
  | readbyte => exact execReadbyte_performs
  | writebits => exact execWritebits_performs
  | mfDecode => exact execMfDecode_performs
  | mfEncode => exact execMfEncode_performs
  | colorcountfor => exact execColorcountfor_performs
  | channelcountfor => exact execChannelcountfor_performs
  | quant1 => exact execQuant1_performs
  | quant2 => exact execQuant2_performs
  | quant8 => exact execQuant8_performs
  | color => exact execColor_performs
  | defcolor => exact execDefcolor_performs
  | loaddefpal => exact execLoaddefpal_performs
  | decode => exact execDecode_performs
  | colorat => exact execColorat_performs
  | bytecount => exact execBytecount_performs
  | encode => exact execEncode_performs
  | build => exact execBuild_performs
  | _ => simp [Instr.isCommand, Instr.encoding] at hi

/-- Everything a command that ends in `t` can have done: it succeeded, or it took an exception where its run stopped. -/
theorem exec_cases (hi : i.isCommand = true) (h : exec i s = .next t) :
    (Effect i s.begin t ∧ HiddenReset i t) ∨
    ∃ x u, Effect i s.begin u ∧ RaisableBy i x ∧ t = u.raise x := by
  obtain ⟨r, hr, hwithin⟩ := exec_performs (s := s) hi
  rw [hr] at h
  rcases Run.finish_eq_next.1 h with rfl | ⟨x, u, rfl, rfl⟩
  · exact .inl hwithin
  · exact .inr ⟨x, u, hwithin.1, hwithin.2, rfl⟩

/-! What a raise leaves. -/

/-- ERR is not 0 after an exception. -/
theorem Exc.errCode_ne_zero (x : Exc) : x.errCode ≠ 0 := by
  cases x with
  | decode c => cases c <;> decide
  | bufferTooSmall q c => simp [Exc.errCode]
  | assert c => simp [Exc.errCode]

theorem legalErr_raise (x : Exc) : LegalErr x.errCode x.errSubCode := by
  cases x with
  | decode c => cases c <;> exact .inl (by decide)
  | bufferTooSmall q c => exact .inl (by simp [Exc.errCode, Exc.errSubCode])
  | assert c => cases c <;> exact .inr (by decide)

/-- Only an EncodeError writes the size registers (60_exceptions.md R272). -/
theorem raise_sizes_of_not_bufferTooSmall {x : Exc} (h : ∀ required actual, x ≠ .bufferTooSmall required actual) :
    (s.raise x).errReq = s.errReq ∧ (s.raise x).errAct = s.errAct := by
  cases x with
  | decode c => exact ⟨rfl, rfl⟩
  | bufferTooSmall q c => exact absurd rfl (h q c)
  | assert c => exact ⟨rfl, rfl⟩

/-- An exception taken where the memories are sound leaves the invariant. -/
theorem MemSound.inv_raise (x : Exc) (h : MemSound s) : Inv (s.raise x) :=
  inv_iff.2 ⟨h, legalErr_raise x, rfl, rfl⟩

/-- A command leaves the registers outside its row alone, whether it raised or not. -/
theorem RowKept.raise (x : Exc) (h : RowKept i s t) : RowKept i s (t.raise x) := { h with }

theorem exec_rowKept (hi : i.isCommand = true) (h : exec i s = .next t) : RowKept i s t := by
  rcases exec_cases hi h with ⟨heff, -⟩ | ⟨x, u, heff, -, rfl⟩
  · exact { heff.row with }
  · exact { heff.row.raise x with }

theorem exec_sizesKept (hi : i.isCommand = true) (h : exec i s = .next t) (hw : i ∉ [Instr.writebits, .encode]) :
    t.errReq = s.errReq ∧ t.errAct = s.errAct := by
  rcases exec_cases hi h with ⟨heff, -⟩ | ⟨x, u, heff, hx, rfl⟩
  · exact ⟨heff.status.errReq, heff.status.errAct⟩
  · obtain ⟨hreq, hact⟩ := raise_sizes_of_not_bufferTooSmall (s := u) (hx hw)
    exact ⟨hreq.trans heff.status.errReq, hact.trans heff.status.errAct⟩

theorem exec_resKept (hi : i.isCommand = true) (h : exec i s = .next t) (herr : t.err = 0) : ResKept i s t := by
  rcases exec_cases hi h with ⟨heff, -⟩ | ⟨x, u, -, -, rfl⟩
  · exact { heff.res with }
  · exact absurd herr x.errCode_ne_zero

theorem exec_posInBuf (hi : i.isCommand = true) (h : exec i s = .next t) (hpos : PosInBuf s) : PosInBuf t := by
  rcases exec_cases hi h with ⟨heff, -⟩ | ⟨x, u, heff, -, rfl⟩ <;> exact heff.inBuf hpos

theorem exec_inv (hi : i.isCommand = true) (h : exec i s = .next t) (hinv : Inv s) : Inv t := by
  obtain ⟨hmem, -, hseq, htmp⟩ := inv_iff.1 hinv
  rcases exec_cases hi h with ⟨heff, hseq', htmp'⟩ | ⟨x, u, heff, -, rfl⟩
  · refine inv_iff.2 ⟨heff.mem hmem, .inl ⟨.inl heff.status.err, heff.status.errSub⟩, ?_, ?_⟩
    · by_cases hd : i ∈ [Instr.decode, .encode]
      · exact hseq' hd
      · exact (heff.status.seq hd).trans hseq
    · by_cases hd : i = .decode
      · exact htmp' hd
      · exact (heff.status.tmp hd).trans htmp
  · exact (heff.mem hmem).inv_raise x

/-! The step. -/

theorem isCommand_of_decodeOpcode {op : Byte} (h : decodeOpcode op = some i) : i.isCommand = true := by
  have : ∀ op : Byte, ∀ i ∈ decodeOpcode op, i.isCommand = true := by decide
  exact this op i h

/-- A write of the host keeps the part of the invariant it touches; a command keeps all of it. -/
theorem step_inv (hinv : Inv s) (h : step s = .next t) : Inv t := by
  rcases step_cases h with ⟨-, rfl⟩ | ⟨a, rest, -, hact⟩
  · exact hinv
  rcases hact with ⟨j, b, -, hj, rfl⟩ | ⟨n, -, hn, rfl⟩ | ⟨k, c, -, rfl⟩ | ⟨k, v, -, hk, rfl⟩ | ⟨k, v, -, rfl⟩ |
    ⟨r, -, rfl⟩ | ⟨op, i, -, hop, hexec⟩ | ⟨op, -, -, rfl⟩
  · exact { hinv with bufWf := Memory.wf_write hinv.bufWf, bufBelow := Memory.below_write hinv.bufBelow hj }
  · exact { hinv with lenMax := hn }
  · exact { hinv with
      palWf := Memory.wf_write hinv.palWf, palBelow := Memory.below_write hinv.palBelow k.isLt,
      image := fun h => by simp at h }
  · exact { hinv with
      pixWf := Memory.wf_write hinv.pixWf, pixBelow := Memory.below_write hinv.pixBelow hk, image := fun h => by simp at h }
  · exact { hinv with }
  · exact { hinv with }
  · exact exec_inv (isCommand_of_decodeOpcode hop) hexec { hinv with }
  · exact MemSound.inv_raise _ (inv_iff.1 hinv).1

end Sys2Proof.Machine
end

section
/-! PROOFS. The statements about the state. -/

namespace Sys2Proof.Machine

/-- Settles O11: a host write keeps the invariant entry by entry, a command because each of its sub-steps keeps the
memories sound and its end resets the hidden registers. -/
theorem invariantKeptByEveryStep : Obligations.InvariantKeptByEveryStep :=
  fun _ _ => step_inv

/-- Settles O12: every sub-step of a command keeps POS inside the buffer, and an exception leaves it where it was. -/
theorem commandsKeepPosInsideTheBuffer : Obligations.CommandsKeepPosInsideTheBuffer :=
  fun _ _ _ hi hpos h => exec_posInBuf hi h hpos

/-- Settles O13: all sub-steps of a command keep the columns its row leaves out, and an exception writes only the status and
RES, the size registers only where it is an EncodeError. -/
theorem commandsTouchOnlyTheirRowOfR44 : Obligations.CommandsTouchOnlyTheirRowOfR44 := by
  intro i s t hi h
  have hrow := exec_rowKept hi h
  exact ⟨hrow.arg, hrow.cmd, hrow.bufMax, hrow.script, fun hw => ⟨hrow.buf hw, exec_sizesKept hi h hw⟩, hrow.lens,
    hrow.pos, hrow.modes, hrow.palram, hrow.pixram, hrow.imgValid,
    fun herr => (exec_resKept hi h herr).all, fun herr => (exec_resKept hi h herr).others⟩

/-- A word is read as the opcode in its low eight bits. -/
theorem decodeTableWord_eight (w : Nat) : decodeTableWord 8 w = decodeOpcode (BitVec.ofNat 8 w) := by
  have hw : BitVec.ofNat 8 (w % 2 ^ 8) = BitVec.ofNat 8 w := BitVec.eq_of_toNat_eq (by simp)
  simp only [decodeTableWord, tableBytes, decodeCommand, hw]
  cases decodeOpcode (BitVec.ofNat 8 w) <;> rfl

theorem withFetchWord_script (s : State) (w : Nat) :
    (s.withFetchWord 8 w).script = .writeCmd (BitVec.ofNat 8 w) :: s.script := by
  have hw : BitVec.ofNat 8 (w % 2 ^ 8) = BitVec.ofNat 8 w := BitVec.eq_of_toNat_eq (by simp)
  simp only [State.withFetchWord, placeCommand, hw]

/-- Settles O3: the action's write of CMD is the fetch. -/
theorem stepRunsTheDecodedCommand : Obligations.StepRunsTheDecodedCommand := by
  refine ⟨fun s op rest i hs hop => ?_, fun s w i hw => ?_⟩
  · rw [step_cons hs, act_writeCmd_of_decode hop]
  · rw [step_cons (withFetchWord_script s w), act_writeCmd_of_decode (decodeTableWord_eight w ▸ hw)]
    rfl

/-- A run that is done and a run that raised both end in a next state. -/
theorem Run.finish_answers (r : Run Unit) : ∃ u, r.finish = .next u := by
  cases r with
  | done _ u => exact ⟨u, rfl⟩
  | raised x u => exact ⟨u.raise x, rfl⟩

theorem exec_answers_of_isCommand (hi : i.isCommand = true) : ∃ t, exec i s = .next t := by
  obtain ⟨r, hr, -⟩ := exec_performs (s := s) hi
  exact hr ▸ r.finish_answers

/-- Settles O8: a command's run ends in a next state, done or raised, and the mode rows answer one by evaluation. -/
theorem everyInstructionAnswersANextState : Obligations.EveryInstructionAnswersANextState := by
  intro i s
  cases i with
  | modeDepthOneBit | modeDepthTwoBit | modeDepthEightBit | modeDepthReserved | modePaletteNo | modePaletteYes
  | modeLayoutGrayscale | modeLayoutRgb | modeLayoutRgba | modeLayoutReserved | modeAccuracyTwoBit
  | modeAccuracyEightBit => exact ⟨_, rfl⟩
  | modeReserved43 rr => exact ⟨s, rfl⟩
  | _ => exact exec_answers_of_isCommand rfl

/-- Settles O14: every command starts from `State.begin`, which is the same whatever ERR and ERR_SUB held. -/
theorem commandsIgnoreTheLastError : Obligations.CommandsIgnoreTheLastError := by
  intro i s e sub hi
  cases i with
  | newcursor | readbits | readbyte | writebits | mfDecode | mfEncode | colorcountfor | channelcountfor | quant1
  | quant2 | quant8 | color | defcolor | loaddefpal | decode | colorat | bytecount | encode | build => rfl
  | _ => simp [Instr.isCommand, Instr.encoding] at hi

theorem portRead_buf_of_lt {s : State} {j : Nat} (h : j < s.bufLen) :
    portRead (.buf j) s = .ok (bufByte s.buf j).toNat := by rw [portRead, if_pos h]

theorem portRead_buf_of_ge {s : State} {j : Nat} (h : s.bufLen ≤ j) :
    portRead (.buf j) s = .error (.noSuchBufByte j) := by rw [portRead, if_neg (by omega)]

/-- Settles O58: a read of BUF passes exactly below BUF_LEN. -/
theorem hostReadsBufBelowItsLength : Obligations.HostReadsBufBelowItsLength := by
  intro s j rest hs
  rw [step_cons hs]
  refine ⟨fun hj => ⟨portRead_buf_of_lt hj, ?_⟩, fun hj => ?_⟩
  · rw [act, portReadAction, portRead_buf_of_lt (s := { s with script := rest }) hj]
  · rw [act, portReadAction, portRead_buf_of_ge (s := { s with script := rest }) hj]

end Sys2Proof.Machine
end

section
/-! PROOFS. The encodings: the opcodes, the rows of the mode byte, and DECODE's step 2 by its rows (30_encoding.md R93 to R95,
R113, R114). -/

namespace Sys2Proof.Machine

variable {s t : State} {i : Instr} {x : Exc}

/-- An exception that carries no sizes writes only the status, RES and the hidden registers (60_exceptions.md R276). -/
theorem raisedOnly_raise (h : ∀ required actual, x ≠ .bufferTooSmall required actual) :
    RaisedOnly x.errCode x.errSubCode s (s.raise x) := by
  cases x with
  | bufferTooSmall q c => exact absurd rfl (h q c)
  | _ => rfl

/-! Opcodes. -/

theorem decodeOpcode_eq_none {op : Byte}
    (h : op ∉ ([0x01, 0x02, 0x03, 0x04, 0x10, 0x11, 0x12, 0x13, 0x20, 0x21, 0x22, 0x23, 0x24, 0x25,
      0x30, 0x31, 0x32, 0x33, 0x34] : List Byte)) : decodeOpcode op = none := by
  revert op
  decide

/-- Settles O4: no such opcode decodes, and the step of its write takes BAD_COMMAND. -/
theorem illegalOpcodeRaisesBadCommand : Obligations.IllegalOpcodeRaisesBadCommand := by
  intro s op rest hs hop
  refine ⟨_, ?_, raisedOnly_raise (x := .assert .badCommand) (by simp)⟩
  rw [step_cons hs, act_writeCmd_of_illegal (decodeOpcode_eq_none hop)]

/-- Settles O5: the decoders evaluate to the rows. -/
theorem opcodesDecodeAsTheTableSays : Obligations.OpcodesDecodeAsTheTableSays :=
  ⟨rfl, rfl, rfl, rfl, rfl, rfl, rfl, rfl, rfl, rfl⟩

theorem decodeIn_encodeInstr (i : Instr) : decodeIn i.encoding (encodeInstr i) = some i := by
  cases i with
  | modeReserved43 rr => revert rr; decide
  | _ => rfl

theorem encodeInstr_of_decodeOpcode {b : Byte} (h : decodeOpcode b = some i) : encodeInstr i = b := by
  have : ∀ b : Byte, ∀ i ∈ decodeOpcode b, encodeInstr i = b := by decide
  exact this b i h

theorem encodeModeByte_decodeModeByte (m : Byte) : encodeModeByte (decodeModeByte m) = m := by
  revert m
  decide

/-- Settles O6: the commands by their rows, the bytes by evaluation of each. -/
theorem encodingsRoundTrip : Obligations.EncodingsRoundTrip :=
  ⟨decodeIn_encodeInstr, fun _ _ h => ⟨encodeInstr_of_decodeOpcode h, isCommand_of_decodeOpcode h⟩,
    encodeModeByte_decodeModeByte⟩

/-! The rows of the mode byte. -/

/-- Settles O29: each row's meaning by evaluation, the reserved patterns by the rule of `State.raise`. -/
theorem modeRowsSelectOrRaise : Obligations.ModeRowsSelectOrRaise := by
  intro s
  have hraise : RaisedOnly 5 0 s (s.raise (.decode .invalidMode)) := raisedOnly_raise (by simp)
  exact ⟨rfl, rfl, rfl, rfl, rfl, rfl, rfl, rfl, rfl, rfl, fun _ => rfl, ⟨_, rfl, hraise⟩, ⟨_, rfl, hraise⟩⟩

/-- The pixel depth of a field value; the value 3, which names none, is read as the last. -/
def depthNamed (n : Nat) : PixelDepth :=
  match n with
  | 0 => .oneBit
  | 1 => .twoBit
  | _ => .eightBit

/-- The channel layout of a field value; the value 3, which names none, is read as the last. -/
def layoutNamed (n : Nat) : ChannelLayout :=
  match n with
  | 0 => .grayscale
  | 1 => .rgb
  | _ => .rgba

/-- The channel accuracy of a field value. -/
def accuracyNamed (n : Nat) : ChannelAccuracy :=
  match n with
  | 0 => .twoBit
  | _ => .eightBit

theorem depthBits_toNat (m : Byte) : (depthBits m).toNat = m.toNat / 64 := by revert m; decide
theorem paletteBit_toNat (m : Byte) : (paletteBit m).toNat = m.toNat / 32 % 2 := by revert m; decide
theorem layoutBits_toNat (m : Byte) : (layoutBits m).toNat = m.toNat / 2 % 4 := by revert m; decide
theorem accuracyBit_toNat (m : Byte) : (accuracyBit m).toNat = m.toNat % 2 := by revert m; decide

/-- The patterns of a two-bit field. -/
theorem twoBits_cases (f : BitVec 2) : f = 0 ∨ f = 1 ∨ f = 2 ∨ f = 3 := by revert f; decide

theorem takeDepth_of_named {f : BitVec 2} (h : f.toNat ≠ 3) :
    takeDepth f s = .done () { s with tmp := { s.tmp with d := depthNamed f.toNat } } := by
  rcases twoBits_cases f with rfl | rfl | rfl | rfl
  · rfl
  · rfl
  · rfl
  · exact absurd rfl h

theorem takeDepth_of_reserved {f : BitVec 2} (h : f.toNat = 3) : takeDepth f s = .raised (.decode .invalidMode) s := by
  obtain rfl : f = 3 := BitVec.eq_of_toNat_eq h
  rfl

theorem takeLayout_of_named {f : BitVec 2} (h : f.toNat ≠ 3) :
    takeLayout f s = .done () { s with tmp := { s.tmp with l := layoutNamed f.toNat } } := by
  rcases twoBits_cases f with rfl | rfl | rfl | rfl
  · rfl
  · rfl
  · rfl
  · exact absurd rfl h

theorem takeLayout_of_reserved {f : BitVec 2} (h : f.toNat = 3) : takeLayout f s = .raised (.decode .invalidMode) s := by
  obtain rfl : f = 3 := BitVec.eq_of_toNat_eq h
  rfl

/-- A mode byte both of whose patterns name an enumerator sets the four step variables of its fields. -/
theorem takeModeByte_of_named {m : Byte} (hd : m.toNat / 64 ≠ 3) (hl : m.toNat / 2 % 4 ≠ 3) :
    takeModeByte m s = .done () { s with tmp := { s.tmp with
      d := depthNamed (m.toNat / 64)
      p := m.toNat / 32 % 2 != 0
      l := layoutNamed (m.toNat / 2 % 4)
      acc := accuracyNamed (m.toNat % 2) } } := by
  rw [← depthBits_toNat] at hd ⊢
  rw [← layoutBits_toNat] at hl ⊢
  rw [takeModeByte, takeDepth_of_named hd, ← paletteBit_toNat, ← accuracyBit_toNat]
  simp only [Run.done_andThen, takePalette, takeReserved, takeLayout_of_named hl]
  rfl

/-- A mode byte with a reserved pattern raises INVALID_MODE, with nothing but step variables written before. -/
theorem takeModeByte_of_reserved {m : Byte} (h : m.toNat / 64 = 3 ∨ m.toNat / 2 % 4 = 3) :
    ∃ v, takeModeByte m s = .raised (.decode .invalidMode) { s with tmp := v } := by
  rw [← depthBits_toNat, ← layoutBits_toNat] at h
  rw [takeModeByte]
  by_cases hd : (depthBits m).toNat = 3
  · exact ⟨s.tmp, by rw [takeDepth_of_reserved hd]; rfl⟩
  · have hl := h.resolve_left hd
    simp only [takeDepth_of_named hd, Run.done_andThen, takePalette, takeReserved, takeLayout_of_reserved hl,
      Run.raised_andThen]
    exact ⟨_, rfl⟩

theorem exec_depthRow (m : Byte) (s : State) :
    exec (decodeModeField .pixelDepth m) s = (takeDepth (depthBits m) s).finish := by
  rw [decodeModeField]
  rcases twoBits_cases (depthBits m) with h | h | h | h <;> rw [h] <;> rfl

theorem exec_paletteRow (m : Byte) (s : State) :
    exec (decodeModeField .paletteEmbedded m) s = (takePalette (paletteBit m) s).finish := by
  rw [decodeModeField]
  rcases BitVec.eq_zero_or_eq_one (paletteBit m) with h | h <;> rw [h] <;> rfl

theorem exec_layoutRow (m : Byte) (s : State) :
    exec (decodeModeField .channelLayout m) s = (takeLayout (layoutBits m) s).finish := by
  rw [decodeModeField]
  rcases twoBits_cases (layoutBits m) with h | h | h | h <;> rw [h] <;> rfl

theorem exec_accuracyRow (m : Byte) (s : State) :
    exec (decodeModeField .channelAccuracy m) s = (takeAccuracy (accuracyBit m) s).finish := by
  rw [decodeModeField]
  rcases BitVec.eq_zero_or_eq_one (accuracyBit m) with h | h <;> rw [h] <;> rfl

theorem runRows_cons_of_done {r : Run Unit} {is : List Instr} (hexec : exec i s = r.finish) (hdone : r = .done () t) :
    runRows (i :: is) s = runRows is t := by
  rw [runRows, hexec, hdone, Run.finish_done]

/-- The five rows of a mode byte do one after the other what DECODE's step 2 does with the byte. -/
theorem runRows_decodeModeByte {m : Byte} (hd : m.toNat / 64 ≠ 3) (hl : m.toNat / 2 % 4 ≠ 3) :
    runRows (decodeModeByte m) s = (takeModeByte m s).finish := by
  have hd' : (depthBits m).toNat ≠ 3 := depthBits_toNat m ▸ hd
  have hl' : (layoutBits m).toNat ≠ 3 := layoutBits_toNat m ▸ hl
  rw [decodeModeByte, runRows_cons_of_done (exec_depthRow m s) (takeDepth_of_named hd'),
    runRows_cons_of_done (exec_paletteRow m _) rfl, runRows_cons_of_done (r := takeReserved (reservedBits m) _) rfl rfl,
    runRows_cons_of_done (exec_layoutRow m _) (takeLayout_of_named hl'),
    runRows_cons_of_done (exec_accuracyRow m _) rfl, takeModeByte_of_named hd hl, ← depthBits_toNat,
    ← paletteBit_toNat, ← layoutBits_toNat, ← accuracyBit_toNat]
  rfl

/-- Settles O30: each row runs its field's share of step 2, and an exception overwrites the step variables set before it. -/
theorem modeByteRunsItsFiveRows : Obligations.ModeByteRunsItsFiveRows := by
  refine fun m s => ⟨fun hd hl => (runRows_decodeModeByte hd hl).symm, fun h => ?_⟩
  obtain ⟨v, hv⟩ := takeModeByte_of_reserved (s := s) h
  have hraise : RaisedOnly 5 0 { s with tmp := v } ({ s with tmp := v }.raise (.decode .invalidMode)) :=
    raisedOnly_raise (by simp)
  exact ⟨_, by rw [hv, Run.finish_raised], hraise⟩

end Sys2Proof.Machine
end

section
/-! PROOFS. DECODE of a stream it accepts, in closed form: the step variables are functions of the stream's fields
(20_memory.md R69, 43_imagecodec_decode.md R200 to R206). -/

namespace Sys2Proof.Machine

variable {α β : Type} {s : State} {m m' : List Host.Cell}

/-! Readers of fields. -/

/-- Where there is room for its `w` bits, `g` answers `val` of BUF at POS and advances POS by `w`; and `val` depends on
those `w` bits of BUF only. -/
structure ReadsField (w : Nat) (val : List Host.Cell → Nat → α) (g : State → Run α) : Prop where
  reads : ∀ s : State, s.pos + w ≤ 8 * s.bufLen → g s = .done (val s.buf s.pos) (s.advance w)
  congr : ∀ m m' p, (∀ q, p ≤ q → q < p + w → bufBit m q = bufBit m' q) → val m p = val m' p

/-- `n` consecutive fields of `w` bits from position `p` on. -/
def fieldsAt (val : List Host.Cell → Nat → α) (w n : Nat) (m : List Host.Cell) (p : Nat) : List α :=
  (List.range n).map fun i => val m (p + i * w)

theorem fieldsAt_succ (val : List Host.Cell → Nat → α) (w n : Nat) (m : List Host.Cell) (p : Nat) :
    fieldsAt val w (n + 1) m p = val m p :: fieldsAt val w n m (p + w) := by
  have hpos : ∀ i, p + (i + 1) * w = p + w + i * w := fun i => by ring
  simp [fieldsAt, List.range_succ_eq_map, hpos]

theorem fieldsAt_congr {val : List Host.Cell → Nat → α} {w n p : Nat}
    (hval : ∀ m m' p, (∀ q, p ≤ q → q < p + w → bufBit m q = bufBit m' q) → val m p = val m' p)
    (h : ∀ q, p ≤ q → q < p + n * w → bufBit m q = bufBit m' q) : fieldsAt val w n m p = fieldsAt val w n m' p := by
  refine List.map_congr_left fun i hi => hval _ _ _ fun q hq hqw => h q (by omega) ?_
  have hin : (i + 1) * w ≤ n * w := Nat.mul_le_mul_right w (List.mem_range.1 hi)
  rw [Nat.succ_mul] at hin
  omega

theorem readBits_readsField (n : Nat) : ReadsField n (fun m p => memRead m p n) (readBits n) :=
  ⟨fun _ => readBits_of_room, fun _ _ _ => memRead_congr⟩

theorem ReadsField.map {w : Nat} {val : List Host.Cell → Nat → α} {g : State → Run α} (hg : ReadsField w val g)
    (f : α → β) : ReadsField w (fun m p => f (val m p)) fun s => (g s).andThen fun a t => .done (f a) t :=
  ⟨fun s hs => by rw [hg.reads s hs, Run.done_andThen], fun m m' p h => congrArg f (hg.congr m m' p h)⟩

/-- A reader that repeats `g` reads consecutive fields. -/
theorem ReadsField.list {w : Nat} {val : List Host.Cell → Nat → α} {g : State → Run α} (hg : ReadsField w val g)
    {f : Nat → State → Run (List α)} (hzero : ∀ s, f 0 s = .done [] s)
    (hsucc : ∀ n s, f (n + 1) s = (g s).andThen fun a t => (f n t).andThen fun as u => .done (a :: as) u) (n : Nat) :
    ReadsField (n * w) (fieldsAt val w n) (f n) := by
  refine ⟨?_, fun _ _ _ => fieldsAt_congr hg.congr⟩
  induction n with
  | zero => exact fun s _ => by simp [hzero, fieldsAt, State.advance]
  | succ n ih =>
    intro s hs
    rw [Nat.succ_mul] at hs ⊢
    have hfirst := hg.reads s (by omega)
    have hrest := ih (s.advance w) (by simp only [State.advance_pos, State.advance_bufLen]; omega)
    rw [hsucc, hfirst, Run.done_andThen, hrest, Run.done_andThen, fieldsAt_succ, State.advance_advance, Nat.add_comm w]
    rfl

/-! The palette and the pixels of a stream. -/

/-- The channel a stored value stands for (42_palette.md R183). -/
def channelValue (acc : ChannelAccuracy) (v : Nat) : Byte :=
  match acc with
  | .twoBit => expand2 (BitVec.ofNat 2 v)
  | .eightBit => BitVec.ofNat 8 v

/-- The channel at position `p` of BUF. -/
def channelAt (acc : ChannelAccuracy) (m : List Host.Cell) (p : Nat) : Byte :=
  channelValue acc (memRead m p (bitsPerChannelFor acc))

/-- The palette entry at position `p` of BUF. -/
def entryAt (l : ChannelLayout) (acc : ChannelAccuracy) (m : List Host.Cell) (p : Nat) : Color :=
  colorOfChannels l (fieldsAt (channelAt acc) (bitsPerChannelFor acc) (channelCountFor l) m p)

/-- The bits of a palette entry (30_encoding.md R97). -/
def entryBits (l : ChannelLayout) (acc : ChannelAccuracy) : Nat := channelCountFor l * bitsPerChannelFor acc

/-- The pixel at position `p` of BUF. -/
def pixelAt (bpp : Nat) (m : List Host.Cell) (p : Nat) : Byte := BitVec.ofNat 8 (memRead m p bpp)

theorem readChannel_readsField (acc : ChannelAccuracy) :
    ReadsField (bitsPerChannelFor acc) (channelAt acc) (readChannel acc) := by
  cases acc <;> exact (readBits_readsField _).map (channelValue _)

theorem readEntry_readsField (l : ChannelLayout) (acc : ChannelAccuracy) :
    ReadsField (entryBits l acc) (entryAt l acc) (readEntry l acc) :=
  ((readChannel_readsField acc).list (fun _ => rfl) (fun _ _ => rfl) _).map (colorOfChannels l)

theorem readEntries_readsField (l : ChannelLayout) (acc : ChannelAccuracy) (n : Nat) :
    ReadsField (n * entryBits l acc) (fieldsAt (entryAt l acc) (entryBits l acc) n) (readEntries l acc n) :=
  (readEntry_readsField l acc).list (fun _ => rfl) (fun _ _ => rfl) n

theorem readPixels_readsField (bpp n : Nat) :
    ReadsField (n * bpp) (fieldsAt (pixelAt bpp) bpp n) (readPixels bpp n) :=
  ((readBits_readsField bpp).map (BitVec.ofNat 8)).list (fun _ => rfl)
    (fun _ _ => by rw [readPixels, Run.andThen_assoc]; rfl) n

/-! The fields of a stream by their offsets (20_memory.md R69). -/

theorem bppOf_eq (n : Nat) : bppOf n = bitsPerPixelFor (depthNamed n) := by
  match n with
  | 0 | 1 | n + 2 => rfl

theorem ccOf_eq (n : Nat) : ccOf n = colorCountFor (depthNamed n) := by
  rw [ccOf, bppOf_eq, colorCountFor_eq_two_pow]

theorem chOf_eq (n : Nat) : chOf n = channelCountFor (layoutNamed n) := by
  match n with
  | 0 | 1 | n + 2 => rfl

theorem bpcOf_eq (n : Nat) : bpcOf n = bitsPerChannelFor (accuracyNamed n) := by
  match n with
  | 0 | n + 1 => rfl

/-- A field inside a field. -/
theorem memRead_inner (m : List Host.Cell) (p a b c : Nat) :
    memRead m p (a + b + c) / 2 ^ c % 2 ^ b = memRead m (p + a) b := by
  refine Nat.eq_of_testBit_eq fun j => ?_
  rw [Nat.testBit_mod_two_pow, Nat.testBit_div_two_pow, testBit_memRead, testBit_memRead]
  by_cases hj : j < b
  · have hpos : p + (a + b + c - 1 - (j + c)) = p + a + (b - 1 - j) := by omega
    simp [hj, hpos, show j + c < a + b + c by omega]
  · simp [hj]

/-- A field inside byte `j`. -/
theorem memRead_inner_byte (m : List Host.Cell) (j a b c : Nat) (h : a + b + c = 8) :
    memRead m (8 * j + a) b = (bufByte m j).toNat / 2 ^ c % 2 ^ b := by
  rw [← memRead_byte, ← h, memRead_inner]

theorem streamDepth_eq (m : List Host.Cell) : streamDepth m = memRead m 56 2 := by
  have hfield := memRead_inner_byte m 7 0 2 6 rfl
  have hlt := (bufByte m 7).isLt
  simp only [streamDepth, hfield]
  omega

theorem streamPalette_eq (m : List Host.Cell) : streamPalette m = memRead m 58 1 := (memRead_inner_byte m 7 2 1 5 rfl).symm

theorem streamLayout_eq (m : List Host.Cell) : streamLayout m = memRead m 61 2 := (memRead_inner_byte m 7 5 2 1 rfl).symm

theorem streamAccuracy_eq (m : List Host.Cell) : streamAccuracy m = memRead m 63 1 := by
  simpa [streamAccuracy] using (memRead_inner_byte m 7 7 1 0 rfl).symm

theorem streamWidth_eq (m : List Host.Cell) : streamWidth m = memRead m 64 12 := by
  have hhigh : memRead m 64 8 = (bufByte m 8).toNat := memRead_byte m 8
  have hlow := memRead_inner_byte m 9 0 4 4 rfl
  have hlt := (bufByte m 9).isLt
  rw [memRead_add m 64 8 4, hhigh, Nat.shiftLeft_eq, streamWidth, hlow]
  omega

theorem streamHeight_eq (m : List Host.Cell) : streamHeight m = memRead m 76 12 := by
  have hhigh : memRead m 76 4 = (bufByte m 9).toNat % 16 := by simpa using memRead_inner_byte m 9 4 4 0 rfl
  have hlow : memRead m 80 8 = (bufByte m 10).toNat := memRead_byte m 10
  rw [memRead_add m 76 4 8, hhigh, hlow, Nat.shiftLeft_eq, streamHeight]

theorem streamPalette_lt (m : List Host.Cell) : streamPalette m < 2 := Nat.mod_lt _ (by decide)

theorem streamWidth_lt (m : List Host.Cell) : streamWidth m < 4096 := streamWidth_eq m ▸ memRead_lt m 12 64

theorem streamHeight_lt (m : List Host.Cell) : streamHeight m < 4096 := streamHeight_eq m ▸ memRead_lt m 12 76

theorem streamP0_eq (m : List Host.Cell) : streamP0 m = 8 * ceil8 (88 + streamPaletteBits m) := by
  simp only [streamP0, ceil8]
  omega

theorem palette_le_streamP0 (m : List Host.Cell) : 88 + streamPaletteBits m ≤ streamP0 m := by
  simp only [streamP0, ceil8]
  omega

theorem streamP0_le_streamEnd (m : List Host.Cell) : streamP0 m ≤ streamEnd m := Nat.le_add_right _ _

/-! DECODE's step variables of a stream. -/

/-- The bits of the palette section the step variables announce. -/
def StepVars.palBits (v : StepVars) : Nat := if v.p then colorCountFor v.d * entryBits v.l v.acc else 0

/-- The bits of the pixel plane the step variables announce. -/
def StepVars.pixBits (v : StepVars) : Nat := v.w.toNat * v.h.toNat * bitsPerPixelFor v.d

/-- The palette that the step variables announce and the buffer holds from position `p` on. -/
def StepVars.palAt (v : StepVars) (m : List Host.Cell) (p : Nat) : List Color :=
  if v.p then fieldsAt (entryAt v.l v.acc) (entryBits v.l v.acc) (colorCountFor v.d) m p else defaultPalette v.d

/-- The pixels that the step variables announce and the buffer holds from position `p` on. -/
def StepVars.pixAt (v : StepVars) (m : List Host.Cell) (p : Nat) : List Byte :=
  fieldsAt (pixelAt (bitsPerPixelFor v.d)) (bitsPerPixelFor v.d) (v.w.toNat * v.h.toNat) m p

/-- The step variables after the mode byte and the dimensions of the stream in `m`. -/
def streamHeader (m : List Host.Cell) : StepVars :=
  { StepVars.empty with
    d := depthNamed (streamDepth m)
    p := streamPalette m != 0
    l := layoutNamed (streamLayout m)
    acc := accuracyNamed (streamAccuracy m)
    w := BitVec.ofNat 12 (streamWidth m)
    h := BitVec.ofNat 12 (streamHeight m) }

/-- The step variables after the palette section too. -/
def streamPaletteVars (m : List Host.Cell) : StepVars := { streamHeader m with pal := (streamHeader m).palAt m 88 }

/-- The step variables after the whole stream in `m`. -/
def streamVars (m : List Host.Cell) : StepVars :=
  { streamPaletteVars m with pix := (streamPaletteVars m).pixAt m (streamP0 m) }

theorem streamHeader_palBits (m : List Host.Cell) : (streamHeader m).palBits = streamPaletteBits m := by
  rw [StepVars.palBits, streamPaletteBits, ccOf_eq, chOf_eq, bpcOf_eq, Nat.mul_assoc]
  obtain hp | hp : streamPalette m = 0 ∨ streamPalette m = 1 := by have := streamPalette_lt m; omega
  · simp [streamHeader, hp]
  · simp [streamHeader, hp, entryBits]

theorem streamHeader_pixels (m : List Host.Cell) :
    (streamHeader m).w.toNat * (streamHeader m).h.toNat = streamPixels m := by
  simp [streamHeader, streamPixels, Nat.mod_eq_of_lt (streamWidth_lt m), Nat.mod_eq_of_lt (streamHeight_lt m)]

theorem streamHeader_pixBits (m : List Host.Cell) :
    (streamHeader m).pixBits = streamPixels m * bppOf (streamDepth m) := by
  rw [StepVars.pixBits, streamHeader_pixels, bppOf_eq]
  rfl

theorem streamPaletteVars_pixBits (m : List Host.Cell) :
    (streamPaletteVars m).pixBits = streamPixels m * bppOf (streamDepth m) := streamHeader_pixBits m

/-! DECODE's steps, each where its section is there. -/

/-- `s` inside a DECODE: in phase `ph`, at position `p`, with the step variables `v`. -/
def State.inDecode (ph : Phase) (p : Nat) (v : StepVars) (s : State) : State := { s with seq := ph, pos := p, tmp := v }

section
variable {ph : Phase} {p : Nat} {v : StepVars}

@[simp] theorem State.inDecode_buf : (s.inDecode ph p v).buf = s.buf := rfl
@[simp] theorem State.inDecode_bufLen : (s.inDecode ph p v).bufLen = s.bufLen := rfl
@[simp] theorem State.inDecode_pos : (s.inDecode ph p v).pos = p := rfl
@[simp] theorem State.inDecode_tmp : (s.inDecode ph p v).tmp = v := rfl
@[simp] theorem State.inDecode_goto (q : Phase) : (s.inDecode ph p v).goto q = s.inDecode q p v := rfl
@[simp] theorem State.inDecode_advance (n : Nat) : (s.inDecode ph p v).advance n = s.inDecode ph (p + n) v := rfl
@[simp] theorem State.inDecode_alignPos : (s.inDecode ph p v).alignPos = s.inDecode ph (8 * ceil8 p) v := rfl

theorem State.inDecode_room {n : Nat} (h : p + n ≤ 8 * s.bufLen) : ¬ (s.inDecode ph p v).bitsLeft < n := by
  simp only [bitsLeft, inDecode_bufLen, inDecode_pos]
  omega

theorem decodeSig_of_signature (hlen : 7 ≤ s.bufLen) (hsig : HasSignature s.buf) :
    decodeSig (s.inDecode ph 0 v) = .done () (s.inDecode .dSig 56 v) := by
  have hread := readBytes_aligned 7 (s := s.inDecode .dSig 0 v) (j := 0) rfl (by simpa using hlen)
  have hbytes : (List.range' 0 7).map (bufByte s.buf) = sigBytes := by rw [← List.range_eq_range']; exact hsig
  simp [decodeSig, State.inDecode_room (show 0 + 56 ≤ 8 * s.bufLen by omega), hread, hbytes]

theorem decodeMode_of_room (hlen : 8 ≤ s.bufLen) :
    decodeMode (s.inDecode ph 56 v) = takeModeByte (bufByte s.buf 7) (s.inDecode .dMode 64 v) := by
  have hread := readByte_aligned (s := s.inDecode .dMode 56 v) (j := 7) rfl hlen
  simp [decodeMode, State.inDecode_room (show 56 + 8 ≤ 8 * s.bufLen by omega), hread]

theorem decodeMode_of_named (hlen : 8 ≤ s.bufLen) (hd : streamDepth s.buf ≠ 3) (hl : streamLayout s.buf ≠ 3) :
    decodeMode (s.inDecode ph 56 v) = .done () (s.inDecode .dMode 64 { v with
      d := depthNamed (streamDepth s.buf)
      p := streamPalette s.buf != 0
      l := layoutNamed (streamLayout s.buf)
      acc := accuracyNamed (streamAccuracy s.buf) }) := by
  rw [decodeMode_of_room hlen, takeModeByte_of_named hd hl]
  rfl

theorem decodeDim_of_room (hlen : 11 ≤ s.bufLen) :
    decodeDim (s.inDecode ph 64 v) = .done () (s.inDecode .dDim 88 { v with
      w := BitVec.ofNat 12 (streamWidth s.buf)
      h := BitVec.ofNat 12 (streamHeight s.buf) }) := by
  have hw := readBits_of_room (n := 12) (s := s.inDecode .dDim 64 v) (show 64 + 12 ≤ 8 * s.bufLen by omega)
  have hh := readBits_of_room (n := 12) (s := s.inDecode .dDim 76 v) (show 76 + 12 ≤ 8 * s.bufLen by omega)
  simp only [decodeDim, State.inDecode_goto, hw, hh, Run.done_andThen, State.inDecode_advance, streamWidth_eq,
    streamHeight_eq]
  rfl

theorem decodePal_of_room (halign : p % 8 = 0) (hroom : p + v.palBits ≤ 8 * s.bufLen) :
    decodePal (s.inDecode ph p v) =
      .done () (s.inDecode .dPal (8 * ceil8 (p + v.palBits)) { v with pal := v.palAt s.buf p }) := by
  by_cases hp : v.p = true
  · rw [StepVars.palBits, if_pos hp] at hroom ⊢
    have hread := (readEntries_readsField v.l v.acc (colorCountFor v.d)).reads (s.inDecode .dPal p v) hroom
    simp only [decodePal, StepVars.palAt, State.inDecode_goto, State.inDecode_tmp, if_pos hp, hread, Run.done_andThen]
    rfl
  · have hstay : 8 * ceil8 p = p := by simp only [ceil8]; omega
    rw [StepVars.palBits, StepVars.palAt, if_neg hp, if_neg hp, Nat.add_zero, hstay]
    exact (if_neg hp).trans rfl

theorem decodePix_of_room (hroom : p + v.pixBits ≤ 8 * s.bufLen) :
    decodePix (s.inDecode ph p v) =
      .done () (s.inDecode .dPix (p + v.pixBits) { v with pix := v.pixAt s.buf p }) := by
  have hread := (readPixels_readsField (bitsPerPixelFor v.d) (v.w.toNat * v.h.toNat)).reads (s.inDecode .dPix p v) hroom
  have hleft : ¬ (s.inDecode .dPix p v).bitsLeft < v.w.toNat * v.h.toNat * bitsPerPixelFor v.d :=
    State.inDecode_room hroom
  simp only [decodePix, State.inDecode_goto, State.inDecode_tmp, if_neg hleft, hread, Run.done_andThen]
  rfl

end

/-! The whole of DECODE. -/

/-- `s` after a DECODE that accepted the stream in its BUF (43_imagecodec_decode.md R206). -/
def State.decoded (s : State) : State :=
  { s with
    err := 0
    errSub := 0
    pos := streamEnd s.buf
    depth := (streamVars s.buf).d
    palEmb := (streamVars s.buf).p
    layout := (streamVars s.buf).l
    acc := (streamVars s.buf).acc
    width := (streamVars s.buf).w
    height := (streamVars s.buf).h
    palram := Memory.writeAll unlistedColor 0 (streamVars s.buf).pal s.palram
    pixram := Memory.writeAll unlistedByte 0 (streamVars s.buf).pix s.pixram
    imgValid := true
    seq := .idle
    tmp := StepVars.empty }

/-- The first five steps on an accepted stream leave POS after it and its fields in the step variables. -/
theorem decodeSteps_of_accepts {ph : Phase} (h : DecodeAccepts s.buf s.bufLen) :
    decodeSteps (s.inDecode ph 0 StepVars.empty) = decodeDone (s.inDecode .dPix (streamEnd s.buf) (streamVars s.buf)) := by
  obtain ⟨hlen, hsig, hd, hl, hend⟩ := h
  have hP0 := palette_le_streamP0 s.buf
  have hEnd := streamP0_le_streamEnd s.buf
  have hpal : decodePal (s.inDecode .dDim 88 (streamHeader s.buf)) =
      .done () (s.inDecode .dPal (streamP0 s.buf) (streamPaletteVars s.buf)) := by
    rw [streamP0_eq, ← streamHeader_palBits]
    exact decodePal_of_room rfl (by rw [streamHeader_palBits]; omega)
  have hpix : decodePix (s.inDecode .dPal (streamP0 s.buf) (streamPaletteVars s.buf)) =
      .done () (s.inDecode .dPix (streamEnd s.buf) (streamVars s.buf)) := by
    rw [streamEnd, ← streamPaletteVars_pixBits] at hend ⊢
    exact decodePix_of_room hend
  rw [decodeSteps, decodeSig_of_signature (by omega) hsig, Run.done_andThen,
    decodeMode_of_named (by omega) hd hl, Run.done_andThen, decodeDim_of_room (by omega), Run.done_andThen]
  change (decodePal (s.inDecode .dDim 88 (streamHeader s.buf))).andThen _ = _
  rw [hpal, Run.done_andThen, hpix, Run.done_andThen]

/-- DECODE of an accepted stream, in closed form. -/
theorem exec_decode_of_accepts (h : DecodeAccepts s.buf s.bufLen) : exec .decode s = .next s.decoded := by
  have hsteps := decodeSteps_of_accepts (s := { s.begin with imgValid := false }) (ph := s.seq) h
  exact (congrArg Run.finish hsteps).trans rfl

/-! Two streams that differ in spare bits. -/

/-- `m'` has the bits of the stream in `m`, but for the two reserved mode bits and the palette's padding. -/
def AgreesOffSpareBits (m m' : List Host.Cell) : Prop :=
  ∀ p, p < streamEnd m → p ≠ 59 → p ≠ 60 → ¬ (88 + streamPaletteBits m ≤ p ∧ p < streamP0 m) →
    bufBit m' p = bufBit m p

/-- A field of the fixed part of the stream, clear of the reserved bits. -/
theorem AgreesOffSpareBits.memRead_eq {p n : Nat} (h : AgreesOffSpareBits m m') (hp : p + n ≤ 88)
    (hspare : p + n ≤ 59 ∨ 61 ≤ p) : memRead m' p n = memRead m p n := by
  have hP0 := palette_le_streamP0 m
  have hEnd := streamP0_le_streamEnd m
  exact memRead_congr fun q _ _ => h q (by omega) (by omega) (by omega) (by omega)

theorem AgreesOffSpareBits.signature (h : AgreesOffSpareBits m m') (hsig : HasSignature m) : HasSignature m' := by
  refine Eq.trans (List.map_congr_left fun j hj => BitVec.eq_of_toNat_eq ?_) hsig
  have hj := List.mem_range.1 hj
  rw [← memRead_byte, ← memRead_byte, h.memRead_eq (by omega) (by omega)]

theorem AgreesOffSpareBits.depth_eq (h : AgreesOffSpareBits m m') : streamDepth m' = streamDepth m := by
  rw [streamDepth_eq, streamDepth_eq, h.memRead_eq (by omega) (by omega)]

theorem AgreesOffSpareBits.palette_eq (h : AgreesOffSpareBits m m') : streamPalette m' = streamPalette m := by
  rw [streamPalette_eq, streamPalette_eq, h.memRead_eq (by omega) (by omega)]

theorem AgreesOffSpareBits.layout_eq (h : AgreesOffSpareBits m m') : streamLayout m' = streamLayout m := by
  rw [streamLayout_eq, streamLayout_eq, h.memRead_eq (by omega) (by omega)]

theorem AgreesOffSpareBits.accuracy_eq (h : AgreesOffSpareBits m m') : streamAccuracy m' = streamAccuracy m := by
  rw [streamAccuracy_eq, streamAccuracy_eq, h.memRead_eq (by omega) (by omega)]

theorem AgreesOffSpareBits.width_eq (h : AgreesOffSpareBits m m') : streamWidth m' = streamWidth m := by
  rw [streamWidth_eq, streamWidth_eq, h.memRead_eq (by omega) (by omega)]

theorem AgreesOffSpareBits.height_eq (h : AgreesOffSpareBits m m') : streamHeight m' = streamHeight m := by
  rw [streamHeight_eq, streamHeight_eq, h.memRead_eq (by omega) (by omega)]

theorem AgreesOffSpareBits.header_eq (h : AgreesOffSpareBits m m') : streamHeader m' = streamHeader m := by
  rw [streamHeader, h.depth_eq, h.palette_eq, h.layout_eq, h.accuracy_eq, h.width_eq, h.height_eq, streamHeader]

theorem AgreesOffSpareBits.p0_eq (h : AgreesOffSpareBits m m') : streamP0 m' = streamP0 m := by
  rw [streamP0_eq, streamP0_eq, ← streamHeader_palBits, ← streamHeader_palBits, h.header_eq]

theorem AgreesOffSpareBits.end_eq (h : AgreesOffSpareBits m m') : streamEnd m' = streamEnd m := by
  rw [streamEnd, streamEnd, ← streamHeader_pixBits, ← streamHeader_pixBits, h.header_eq, h.p0_eq]

theorem StepVars.palAt_congr {v : StepVars} {p : Nat} (h : ∀ q, p ≤ q → q < p + v.palBits → bufBit m q = bufBit m' q) :
    v.palAt m p = v.palAt m' p := by
  cases hp : v.p with
  | false => simp [palAt, hp]
  | true =>
    simp only [palBits, hp, if_true] at h
    simp only [palAt, hp, if_true]
    exact (readEntries_readsField _ _ _).congr m m' p h

theorem StepVars.pixAt_congr {v : StepVars} {p : Nat} (h : ∀ q, p ≤ q → q < p + v.pixBits → bufBit m q = bufBit m' q) :
    v.pixAt m p = v.pixAt m' p := (readPixels_readsField _ _).congr m m' p h

theorem AgreesOffSpareBits.paletteVars_eq (h : AgreesOffSpareBits m m') : streamPaletteVars m' = streamPaletteVars m := by
  have hP0 := palette_le_streamP0 m
  have hEnd := streamP0_le_streamEnd m
  have hpal : (streamHeader m).palAt m' 88 = (streamHeader m).palAt m 88 := by
    refine StepVars.palAt_congr fun q hq hbits => ?_
    rw [streamHeader_palBits] at hbits
    exact h q (by omega) (by omega) (by omega) (by omega)
  rw [streamPaletteVars, streamPaletteVars, h.header_eq, hpal]

theorem AgreesOffSpareBits.vars_eq (h : AgreesOffSpareBits m m') : streamVars m' = streamVars m := by
  have hP0 := palette_le_streamP0 m
  have hpix : (streamPaletteVars m).pixAt m' (streamP0 m) = (streamPaletteVars m).pixAt m (streamP0 m) := by
    refine StepVars.pixAt_congr fun q hq hbits => ?_
    rw [streamPaletteVars_pixBits, ← streamEnd] at hbits
    exact h q hbits (by omega) (by omega) (by omega)
  rw [streamVars, streamVars, h.paletteVars_eq, h.p0_eq, hpix]

theorem AgreesOffSpareBits.accepts {len : Nat} (h : AgreesOffSpareBits m m') (hacc : DecodeAccepts m len) :
    DecodeAccepts m' len := by
  obtain ⟨hlen, hsig, hd, hl, hend⟩ := hacc
  exact ⟨hlen, h.signature hsig, h.depth_eq ▸ hd, h.layout_eq ▸ hl, h.end_eq ▸ hend⟩

/-- Settles O48: what DECODE does with an accepted stream is a function of the stream's fields, and a buffer that differs in
spare bits only is accepted too and has the same fields. -/
theorem decodeIgnoresSpareBits : Obligations.DecodeIgnoresSpareBits := by
  intro s t b hacc hbits ht
  have hagree : AgreesOffSpareBits s.buf b := hbits
  rw [exec_decode_of_accepts hacc] at ht
  cases ht
  rw [exec_decode_of_accepts (s := { s with buf := b }) (hagree.accepts hacc), State.decoded, State.decoded,
    hagree.end_eq, hagree.vars_eq]

end Sys2Proof.Machine
end

section
/-! PROOFS. The BitCursor: each of its commands in closed form, one lemma an ending, and from these the statements of
40_bitcursor.md. -/

namespace Sys2Proof.Machine

variable {s : State} {n : Nat}

/-- Settles O19: by evaluation, the run of NEWCURSOR is one update of POS after the status is cleared. -/
theorem newcursorStartsAtBitZero : Obligations.NewcursorStartsAtBitZero := fun _ => rfl

/-! Fields. -/

/-- Two values that agree on their last `n` bits write the same field. -/
theorem memWrite_congr {v w : Nat} (h : ∀ j < n, v.testBit j = w.testBit j) (m : List Host.Cell) (p : Nat) :
    memWrite m p v n = memWrite m p w n := by
  induction n generalizing m p with
  | zero => rfl
  | succ n ih =>
    rw [memWrite, memWrite, h n (Nat.lt_succ_self n), ih fun j hj => h j (Nat.lt_succ_of_lt hj)]

/-- A field write is the write of its first bits and then of its last bits. -/
theorem memWrite_add (m : List Host.Cell) (p v a b : Nat) :
    memWrite m p v (a + b) = memWrite (memWrite m p (v >>> b) a) (p + a) v b := by
  induction a generalizing m p with
  | zero => simp [memWrite]
  | succ a ih =>
    have hlen : a + 1 + b = (a + b) + 1 := by omega
    have hpos : p + 1 + a = p + (a + 1) := by omega
    rw [hlen, memWrite, memWrite, ih, hpos, Nat.testBit_shiftRight, Nat.add_comm b a]

/-- Two values joined write what they write one after the other. -/
theorem memWrite_join (m : List Host.Cell) (p a n : Nat) {b k : Nat} (hb : b < 2 ^ k) :
    memWrite m p (a <<< k ||| b) (n + k) = memWrite (memWrite m p a n) (p + n) b k := by
  have hfirst : (a <<< k ||| b) >>> k = a := by
    rw [Nat.shiftRight_or_distrib, Nat.shiftLeft_shiftRight, Nat.shiftRight_eq_zero b k hb, Nat.or_zero]
  rw [memWrite_add, hfirst]
  refine memWrite_congr (fun j hj => ?_) _ _
  simp [Nat.testBit_or, Nat.testBit_shiftLeft, Nat.not_le.2 hj]

/-! Operands. -/

theorem lt_two_pow_word {v : Nat} (hv : v < 2 ^ n) (h32 : n ≤ 32) : v < 2 ^ 32 :=
  hv.trans_le (Nat.pow_le_pow_right (by decide) h32)

theorem State.withArg0_arg0_toNat (h32 : n ≤ 32) (s : State) : (s.withArg0 n).arg[0].toNat = n := by
  simpa [State.withArg0] using lt_two_pow_word n.lt_two_pow_self h32

theorem State.withArg01_arg0_toNat {v : Nat} (hv : v < 2 ^ n) (h32 : n ≤ 32) (s : State) :
    (s.withArg01 v n).arg[0].toNat = v := by
  simpa [State.withArg01] using lt_two_pow_word hv h32

theorem State.withArg01_arg1_toNat (v : Nat) (h32 : n ≤ 32) (s : State) : (s.withArg01 v n).arg[1].toNat = n := by
  simpa [State.withArg01] using lt_two_pow_word n.lt_two_pow_self h32

theorem bitCount_admits {v : Word} : OperandKind.bitCount.admits v = true ↔ 1 ≤ v.toNat ∧ v.toNat ≤ 32 := by
  simp [OperandKind.admits]

/-- The check of READBITS' operand passes for a count from 1 to 32. -/
theorem checkBitCount_of_legal {v : Word} (h1 : 1 ≤ v.toNat) (h32 : v.toNat ≤ 32) :
    checkOperands [(.bitCount, v)] s = .done () s :=
  checkOperands_eq_done.2 ⟨by simpa using bitCount_admits.2 ⟨h1, h32⟩, rfl⟩

/-- It raises BAD_BITCOUNT for any other. -/
theorem checkBitCount_of_illegal {v : Word} (h : v.toNat < 1 ∨ 32 < v.toNat) :
    checkOperands [(.bitCount, v)] s = .raised (.assert .badBitcount) s := by
  have hbad : OperandKind.bitCount.admits v ≠ true := by rw [Ne, bitCount_admits]; omega
  exact checkOperands_eq_raised.2 ⟨⟨.badBitcount, by simp [firstFault, hbad, OperandKind.cause], rfl⟩, rfl⟩

/-! Reads (R131, R132). -/

/-- What READBITS and READBYTE do after the check of the count: the field of `n` bits at POS to RES[0]. -/
def readToRes0 (n : Nat) (s : State) : Run Unit :=
  (readBits n s).andThen fun v s => .done () (s.setRes0 (BitVec.ofNat 32 v))

theorem exec_readbits_of_legal (hcount : s.arg[0].toNat = n) (h1 : 1 ≤ n) (h32 : n ≤ 32) :
    exec .readbits s = (readToRes0 n s.begin).finish := by
  subst hcount
  rw [exec, execReadbits, checkBitCount_of_legal h1 h32]
  rfl

theorem exec_readbits_of_illegal (h : s.arg[0].toNat < 1 ∨ 32 < s.arg[0].toNat) :
    exec .readbits s = .next (s.begin.raise (.assert .badBitcount)) := by
  rw [exec, execReadbits, checkBitCount_of_illegal h, Run.raised_andThen, Run.finish_raised]

/-- The byte READBYTE answers with is the field of READBITS 8. -/
theorem exec_readbyte (s : State) : exec .readbyte s = (readToRes0 8 s.begin).finish := by
  have hbyte (m : List Host.Cell) (p : Nat) :
      (BitVec.ofNat 8 (memRead m p 8)).setWidth 32 = BitVec.ofNat 32 (memRead m p 8) :=
    BitVec.setWidth_ofNat_of_le_of_lt (by decide) (memRead_lt m 8 p)
  rw [exec, execReadbyte, readByte, readToRes0]
  rcases readBits_cases s.begin (n := 8) (by decide) with ⟨-, hread⟩ | ⟨-, hread⟩
  · simp only [hread, Run.done_andThen, hbyte]
  · simp only [hread, Run.raised_andThen]

/-- The state after a read command of `n` bits that succeeded: the field in RES[0], POS behind it. -/
def State.afterRead (n : Nat) (s : State) : State :=
  (s.begin.advance n).setRes0 (BitVec.ofNat 32 (memRead s.buf s.pos n))

theorem readToRes0_of_room (hroom : s.pos + n ≤ 8 * s.bufLen) :
    (readToRes0 n s.begin).finish = .next (s.afterRead n) := by
  rw [readToRes0, readBits_of_room (s := s.begin) hroom]
  rfl

theorem readToRes0_of_short (h1 : 1 ≤ n) (hshort : 8 * s.bufLen < s.pos + n) :
    (readToRes0 n s.begin).finish = .next (s.begin.raise (.decode .insufficientBits)) := by
  rw [readToRes0, readBits_of_short (s := s.begin) h1 hshort, Run.raised_andThen, Run.finish_raised]

theorem exec_readbits_of_room (hcount : s.arg[0].toNat = n) (h1 : 1 ≤ n) (h32 : n ≤ 32)
    (hroom : s.pos + n ≤ 8 * s.bufLen) : exec .readbits s = .next (s.afterRead n) := by
  rw [exec_readbits_of_legal hcount h1 h32, readToRes0_of_room hroom]

/-- The same with the count put in ARG[0], which the command keeps. -/
theorem exec_readbits_withArg0 (h1 : 1 ≤ n) (h32 : n ≤ 32) (hroom : s.pos + n ≤ 8 * s.bufLen) :
    exec .readbits (s.withArg0 n) = .next ((s.afterRead n).withArg0 n) :=
  exec_readbits_of_room (State.withArg0_arg0_toNat h32 s) h1 h32 hroom

@[simp] theorem State.afterRead_res0 (n : Nat) (s : State) :
    (s.afterRead n).res[0] = BitVec.ofNat 32 (memRead s.buf s.pos n) := by
  simp [State.afterRead]

theorem State.afterRead_res0_toNat (h32 : n ≤ 32) (s : State) :
    (s.afterRead n).res[0].toNat = memRead s.buf s.pos n := by
  rw [State.afterRead_res0, BitVec.toNat_ofNat, Nat.mod_eq_of_lt (lt_two_pow_word (memRead_lt _ n _) h32)]

/-- The bits of RES[0] after a read: the first bit read is the most significant of the field, those above it are zero. -/
theorem State.afterRead_getLsbD (h32 : n ≤ 32) (s : State) (j : Nat) :
    (s.afterRead n).res[0].getLsbD j = (decide (j < n) && bufBit s.buf (s.pos + (n - 1 - j))) := by
  rw [BitVec.getLsbD, State.afterRead_res0_toNat h32, testBit_memRead]

/-- The same, by the order the bits are read in. -/
theorem State.afterRead_getLsbD_of_lt (h32 : n ≤ 32) (s : State) {i : Nat} (hi : i < n) :
    (s.afterRead n).res[0].getLsbD (n - 1 - i) = bufBit s.buf (s.pos + i) := by
  have hbit : n - 1 - (n - 1 - i) = i := by omega
  rw [State.afterRead_getLsbD h32, hbit, decide_eq_true (show n - 1 - i < n by omega), Bool.true_and]

theorem State.afterRead_getLsbD_of_ge (h32 : n ≤ 32) (s : State) {j : Nat} (hj : n ≤ j) :
    (s.afterRead n).res[0].getLsbD j = false := by
  rw [State.afterRead_getLsbD h32, decide_eq_false (Nat.not_lt.2 hj), Bool.false_and]

theorem State.afterRead_othersKept (n : Nat) (s : State) : OthersOfResKept s (s.afterRead n) := by
  simp [OthersOfResKept, State.afterRead]

/-- Settles O20: with room the field is in RES[0] bit by bit; each of the two checks raises before anything is written. -/
theorem readbitsReturnsTheField : Obligations.ReadbitsReturnsTheField := by
  intro s
  refine ⟨fun h1 h32 hroom => ?_, fun hbad => ?_, fun h1 h32 hshort => ?_⟩
  · exact ⟨_, exec_readbits_of_room rfl h1 h32 hroom, fun i hi => s.afterRead_getLsbD_of_lt h32 hi,
      fun j hj => s.afterRead_getLsbD_of_ge h32 hj, s.afterRead_othersKept _, rfl⟩
  · exact ⟨_, exec_readbits_of_illegal hbad, raisedOnly_raise (by simp)⟩
  · exact ⟨_, (exec_readbits_of_legal rfl h1 h32).trans (readToRes0_of_short h1 hshort), raisedOnly_raise (by simp)⟩

/-- Settles O21: both commands are `readToRes0 8`, which does not look at ARG. -/
theorem readbyteIsReadbitsOfEight : Obligations.ReadbyteIsReadbitsOfEight := by
  intro s
  have hbits : exec .readbits (s.withArg0 8) = (readToRes0 8 (s.withArg0 8).begin).finish :=
    exec_readbits_of_legal (s.withArg0_arg0_toNat (by decide)) (by decide) (by decide)
  refine ⟨fun hroom => ?_, fun hshort => ?_, ?_⟩
  · exact ⟨_, (exec_readbyte s).trans (readToRes0_of_room hroom),
      fun i hi => s.afterRead_getLsbD_of_lt (by decide) hi, fun j hj => s.afterRead_getLsbD_of_ge (by decide) hj,
      s.afterRead_othersKept 8, rfl⟩
  · exact ⟨_, (exec_readbyte s).trans (readToRes0_of_short (by decide) hshort), raisedOnly_raise (by simp)⟩
  · rw [exec_readbyte, hbits]
    rcases Nat.lt_or_ge (8 * s.bufLen) (s.pos + 8) with hshort | hroom
    · exact ⟨_, readToRes0_of_short (by decide) hshort, readToRes0_of_short (s := s.withArg0 8) (by decide) hshort⟩
    · exact ⟨_, readToRes0_of_room hroom, readToRes0_of_room (s := s.withArg0 8) hroom⟩

/-! Writes (R133). -/

/-- The state after a WRITEBITS of `v` in `n` bits that succeeded: the field in BUF, POS behind it. -/
def State.afterWrite (v n : Nat) (s : State) : State :=
  { s.begin with buf := memWrite s.buf s.pos v n }.advance n

theorem exec_writebits (s : State) :
    exec .writebits s = (writeBits s.arg[0].toNat s.arg[1].toNat s.begin).finish := rfl

theorem exec_writebits_of_room {v : Nat} (hvalue : s.arg[0].toNat = v) (hcount : s.arg[1].toNat = n) (h1 : 1 ≤ n)
    (h32 : n ≤ 32) (hv : v < 2 ^ n) (hroom : s.pos + n ≤ 8 * s.bufLen) :
    exec .writebits s = .next (s.afterWrite v n) := by
  rw [exec_writebits, hvalue, hcount, writeBits_of_room (s := s.begin) h1 h32 hv hroom]
  rfl

/-- The same with the operands put in ARG[0] and ARG[1], which the command keeps. -/
theorem exec_writebits_withArg01 {v : Nat} (h1 : 1 ≤ n) (h32 : n ≤ 32) (hv : v < 2 ^ n)
    (hroom : s.pos + n ≤ 8 * s.bufLen) :
    exec .writebits (s.withArg01 v n) = .next ((s.afterWrite v n).withArg01 v n) :=
  exec_writebits_of_room (State.withArg01_arg0_toNat hv h32 s) (State.withArg01_arg1_toNat v h32 s) h1 h32 hv hroom

theorem writeBits_of_badCount {v : Nat} (h : n < 1 ∨ 32 < n) : writeBits v n s = .raised (.assert .badBitcount) s := by
  rw [writeBits, if_pos h]

theorem writeBits_of_wide {v : Nat} (h1 : 1 ≤ n) (h32 : n ≤ 32) (hv : 2 ^ n ≤ v) :
    writeBits v n s = .raised (.assert .valueTooWide) s := by
  rw [writeBits, if_neg (by omega), if_pos hv]

theorem writeBits_of_short {v : Nat} (h1 : 1 ≤ n) (h32 : n ≤ 32) (hv : v < 2 ^ n) (hshort : 8 * s.bufLen < s.pos + n) :
    writeBits v n s = .raised (.bufferTooSmall (ceil8 (s.pos + n)) s.bufLen) s := by
  rw [writeBits, if_neg (by omega), if_neg (by omega), if_pos]
  simp only [State.bitsLeft]; omega

/-- An EncodeError writes only the status with its sizes, RES and the hidden registers (60_exceptions.md R272, R276). -/
theorem raisedTooSmall_raise (required actual : Nat) (s : State) :
    RaisedTooSmall required actual s (s.begin.raise (.bufferTooSmall required actual)) :=
  ⟨rfl, sizeWord_toNat _, sizeWord_toNat _⟩

/-- Settles O22: the write of the field bit by bit, and the three checks of `writeBits` in their order. -/
theorem writebitsWritesTheField : Obligations.WritebitsWritesTheField := by
  intro s
  refine ⟨fun h1 h32 hv hroom hwf => ?_, fun hbad => ?_, fun h1 h32 hv => ?_, fun h1 h32 hv hshort => ?_⟩
  · exact ⟨_, exec_writebits_of_room rfl rfl h1 h32 hv hroom, bufBit_memWrite _ _ hwf,
      fun j hj => bufByte_memWrite _ _ hj, rfl⟩
  · rw [exec_writebits, writeBits_of_badCount hbad]
    exact ⟨_, rfl, raisedOnly_raise (by simp)⟩
  · rw [exec_writebits, writeBits_of_wide h1 h32 hv]
    exact ⟨_, rfl, raisedOnly_raise (by simp)⟩
  · rw [exec_writebits, writeBits_of_short (s := s.begin) h1 h32 hv hshort]
    exact ⟨_, rfl, raisedTooSmall_raise _ _ s⟩

/-! Reads and writes together (R135, R136). -/

/-- A field is its first bits and its last bits, joined. -/
theorem memRead_join (m : List Host.Cell) (p n k : Nat) :
    memRead m p (n + k) = memRead m p n <<< k ||| memRead m (p + n) k := by
  rw [memRead_add, Nat.shiftLeft_add_eq_or_of_lt (memRead_lt m k (p + n))]

/-- Two reads one after the other leave the state of one read, but for RES. -/
theorem State.afterRead_afterRead (n k : Nat) (s : State) :
    (s.afterRead n).afterRead k = { s.afterRead (n + k) with res := ((s.afterRead n).afterRead k).res } := by
  simp [State.afterRead, State.setRes0, State.begin, State.advance, Nat.add_assoc]

/-- Their values, joined, are the value of the one read. -/
theorem State.afterRead_join (n k : Nat) (s : State) :
    (s.afterRead (n + k)).res[0] = (s.afterRead n).res[0] <<< k ||| ((s.afterRead n).afterRead k).res[0] := by
  have hsecond : ((s.afterRead n).afterRead k).res[0] = BitVec.ofNat 32 (memRead s.buf (s.pos + n) k) :=
    State.afterRead_res0 k (s.afterRead n)
  have hshift (x : Nat) : BitVec.ofNat 32 (x <<< k) = BitVec.ofNat 32 x <<< k := by
    apply BitVec.eq_of_toNat_eq
    simp [Nat.shiftLeft_eq]
  rw [hsecond, State.afterRead_res0, State.afterRead_res0, memRead_join, BitVec.ofNat_or, hshift]

/-- Two writes one after the other are the write of their joined value. -/
theorem State.afterWrite_afterWrite (a n : Nat) {b k : Nat} (hb : b < 2 ^ k) (s : State) :
    (s.afterWrite a n).afterWrite b k = s.afterWrite (a <<< k ||| b) (n + k) := by
  simp [State.afterWrite, State.begin, State.advance, memWrite_join s.buf s.pos a n hb, Nat.add_assoc]

/-- Settles O23: a second read or write goes on where the first ended, and ARG is looked at for the operands only. -/
theorem fieldsConcatenate : Obligations.FieldsConcatenate := by
  refine ⟨fun s n m hn hm hnm hroom => ?_, fun s a b n m hn hm hnm ha hb hroom => ?_⟩
  · refine ⟨_, _, _,
      exec_readbits_withArg0 hn (by omega) (by omega),
      exec_readbits_withArg0 hm (by omega) hroom,
      exec_readbits_withArg0 (by omega) hnm (by omega),
      s.afterRead_join n m, ?_⟩
    exact congrArg (fun r : State => (r.withArg0 n).withArg0 m) (s.afterRead_afterRead n m)
  · have hjoin : a <<< m ||| b < 2 ^ (n + m) :=
      Nat.or_lt_two_pow (Nat.shiftLeft_lt ha) (hb.trans_le (Nat.pow_le_pow_right (by decide) (by omega)))
    refine ⟨_, _, _,
      exec_writebits_withArg01 hn (by omega) ha (by omega),
      exec_writebits_withArg01 hm (by omega) hb hroom,
      exec_writebits_withArg01 (by omega) hnm hjoin (by omega), ?_⟩
    exact congrArg (fun r : State => (r.withArg01 a n).withArg01 b m) (s.afterWrite_afterWrite a n hb)

/-- Settles O24: the field read where it was written is its value, which RES[0] has room for. -/
theorem writtenFieldReadsBack : Obligations.WrittenFieldReadsBack := by
  intro s v n hwf h1 h32 hv hroom
  have hfield : memRead (memWrite s.buf s.pos v n) s.pos n = v := by
    rw [memRead_memWrite hwf, Nat.mod_eq_of_lt hv]
  exact ⟨_, _, exec_writebits_withArg01 h1 h32 hv hroom, exec_readbits_withArg0 h1 h32 hroom,
    (State.afterRead_res0_toNat h32 _).trans hfield⟩

end Sys2Proof.Machine
end

section
/-! PROOFS. The ModeFlags unit: its operand checks, the fields of the mode byte as words, each of its commands in closed form,
and from these the statements of 41_modeflags.md. -/

namespace Sys2Proof.Machine

variable {s : State}

/-! Commands that check their operands and then only answer in RES (30_encoding.md R111, R112). -/

theorem depth_admits {v : Word} : OperandKind.depth.admits v = true ↔ v.toNat ≤ 2 := by simp [OperandKind.admits]
theorem layout_admits {v : Word} : OperandKind.layout.admits v = true ↔ v.toNat ≤ 2 := by simp [OperandKind.admits]
theorem flag_admits {v : Word} : OperandKind.flag.admits v = true ↔ v.toNat ≤ 1 := by simp [OperandKind.admits]
theorem byte_admits {v : Word} : OperandKind.byte.admits v = true ↔ v.toNat ≤ 255 := by simp [OperandKind.admits]

theorem depth_rejects {v : Word} (h : 2 < v.toNat) : ¬ OperandKind.depth.admits v = true := by rw [depth_admits]; omega
theorem layout_rejects {v : Word} (h : 2 < v.toNat) : ¬ OperandKind.layout.admits v = true := by rw [layout_admits]; omega
theorem flag_rejects {v : Word} (h : 1 < v.toNat) : ¬ OperandKind.flag.admits v = true := by rw [flag_admits]; omega
theorem byte_rejects {v : Word} (h : 255 < v.toNat) : ¬ OperandKind.byte.admits v = true := by rw [byte_admits]; omega

theorem firstFault_cons_of_admits {k : OperandKind} {v : Word} {rest : List (OperandKind × Word)}
    (h : k.admits v = true) : firstFault ((k, v) :: rest) = firstFault rest := by rw [firstFault, if_pos h]

theorem firstFault_cons_of_not_admits {k : OperandKind} {v : Word} {rest : List (OperandKind × Word)}
    (h : ¬ k.admits v = true) : firstFault ((k, v) :: rest) = some k.cause := by rw [firstFault, if_neg h]

/-- A command whose operands are all in their ranges goes on in the state with the status cleared. -/
theorem finish_checkOperands_of_none {ops : List (OperandKind × Word)} (f : Unit → State → Run Unit)
    (h : firstFault ops = none) : ((checkOperands ops s.begin).andThen f).finish = (f () s.begin).finish := by
  rw [checkOperands_eq_done.2 ⟨firstFault_eq_none.1 h, rfl⟩, Run.done_andThen]

/-- A command with an operand out of its range raises the fault of the first, whatever it would do after the checks. -/
theorem finish_checkOperands_of_some {ops : List (OperandKind × Word)} {c : AssertCause} (f : Unit → State → Run Unit)
    (h : firstFault ops = some c) :
    ∃ t, ((checkOperands ops s.begin).andThen f).finish = .next t ∧ RaisedOnly 15 c.subCode s t := by
  rw [checkOperands_eq_raised.2 ⟨⟨c, h, rfl⟩, rfl⟩, Run.raised_andThen]
  exact ⟨_, rfl, raisedOnly_raise (x := .assert c) (by simp)⟩

/-- A command that only puts `v` in RES[0] answers its value and leaves everything else but the status. -/
theorem answers_of_exec_eq_setRes0 {i : Instr} {v : Word} {n : Nat} (hexec : exec i s = .next (s.begin.setRes0 v))
    (hv : v.toNat = n) :
    ∃ t, exec i s = .next t ∧ AnsweredOnly s t ∧ OthersOfResKept s t ∧ t.res[0].toNat = n :=
  ⟨_, hexec, rfl, by simp [OthersOfResKept], by simpa using hv⟩

/-! The fields of a mode byte as words, by MF_DECODE's masks and shifts, and MF_ENCODE's joining of them (R150, R151). -/

/-- Bits 7:6. -/
def depthField (m : Word) : Word := (m &&& 0b11000000#32) >>> 6

/-- Bit 5. -/
def paletteField (m : Word) : Word := (m &&& 0b00100000#32) >>> 5

/-- Bits 2:1. -/
def layoutField (m : Word) : Word := (m &&& 0b00000110#32) >>> 1

/-- Bit 0. -/
def accuracyField (m : Word) : Word := m &&& 0b00000001#32

/-- The byte of four fields, bits 4:3 zero. -/
def joinFields (d p l a : Word) : Word := d <<< 6 ||| p <<< 5 ||| l <<< 1 ||| a

/-- What a mask extracts that is `n` ones once shifted by `k`. -/
theorem toNat_mask_shift {mask : Word} {k n : Nat} (m : Word) (hmask : mask.toNat >>> k = 2 ^ n - 1) :
    ((m &&& mask) >>> k).toNat = m.toNat / 2 ^ k % 2 ^ n := by
  rw [BitVec.toNat_ushiftRight, BitVec.toNat_and, Nat.shiftRight_and_distrib, hmask, Nat.and_two_pow_sub_one_eq_mod,
    Nat.shiftRight_eq_div_pow]

theorem depthField_toNat (m : Word) : (depthField m).toNat = m.toNat / 64 % 4 := toNat_mask_shift (n := 2) m (by decide)
theorem paletteField_toNat (m : Word) : (paletteField m).toNat = m.toNat / 32 % 2 :=
  toNat_mask_shift (n := 1) m (by decide)
theorem layoutField_toNat (m : Word) : (layoutField m).toNat = m.toNat / 2 % 4 := toNat_mask_shift (n := 2) m (by decide)
theorem accuracyField_toNat (m : Word) : (accuracyField m).toNat = m.toNat % 2 := by
  rw [accuracyField, BitVec.toNat_and]
  exact Nat.and_one_is_mod _

/-- A word whose bits below `k` are zero is joined with one below `2 ^ k` by adding them. -/
theorem toNat_or_of_lt {x y : Word} {k n : Nat} (hx : x.toNat = 2 ^ k * n) (hy : y.toNat < 2 ^ k) :
    (x ||| y).toNat = x.toNat + y.toNat := by
  rw [BitVec.toNat_or, hx, Nat.two_pow_add_eq_or_of_lt hy]

theorem toNat_shiftLeft_of_lt {x : Word} {k : Nat} (h : 2 ^ k * x.toNat < 2 ^ 32) :
    (x <<< k).toNat = 2 ^ k * x.toNat := by
  rw [BitVec.toNat_shiftLeft, Nat.shiftLeft_eq, Nat.mul_comm, Nat.mod_eq_of_lt h]

section
variable {d p l a : Word} (hd : d.toNat ≤ 2) (hp : p.toNat ≤ 1) (hl : l.toNat ≤ 2) (ha : a.toNat ≤ 1)
include hd hp hl ha

/-- Fields in their ranges do not overlap, so that joining them is the sum of the shifted values. -/
theorem joinFields_toNat : (joinFields d p l a).toNat = 64 * d.toNat + 32 * p.toNat + 2 * l.toNat + a.toNat := by
  have hd6 : (d <<< 6).toNat = 64 * d.toNat := toNat_shiftLeft_of_lt (by omega)
  have hp5 : (p <<< 5).toNat = 32 * p.toNat := toNat_shiftLeft_of_lt (by omega)
  have hl1 : (l <<< 1).toNat = 2 * l.toNat := toNat_shiftLeft_of_lt (by omega)
  have hdp : (d <<< 6 ||| p <<< 5).toNat = 64 * d.toNat + 32 * p.toNat := by
    rw [toNat_or_of_lt (k := 6) hd6 (by omega), hd6, hp5]
  have hdpl : (d <<< 6 ||| p <<< 5 ||| l <<< 1).toNat = 64 * d.toNat + 32 * p.toNat + 2 * l.toNat := by
    rw [toNat_or_of_lt (k := 5) (n := 2 * d.toNat + p.toNat) (by omega) (by omega), hdp, hl1]
  rw [joinFields, toNat_or_of_lt (k := 1) (n := 32 * d.toNat + 16 * p.toNat + l.toNat) (by omega) (by omega), hdpl]

theorem depthField_joinFields : depthField (joinFields d p l a) = d :=
  BitVec.eq_of_toNat_eq (by rw [depthField_toNat, joinFields_toNat hd hp hl ha]; omega)

theorem paletteField_joinFields : paletteField (joinFields d p l a) = p :=
  BitVec.eq_of_toNat_eq (by rw [paletteField_toNat, joinFields_toNat hd hp hl ha]; omega)

theorem layoutField_joinFields : layoutField (joinFields d p l a) = l :=
  BitVec.eq_of_toNat_eq (by rw [layoutField_toNat, joinFields_toNat hd hp hl ha]; omega)

theorem accuracyField_joinFields : accuracyField (joinFields d p l a) = a :=
  BitVec.eq_of_toNat_eq (by rw [accuracyField_toNat, joinFields_toNat hd hp hl ha]; omega)

/-- The joined fields are a byte. -/
theorem joinFields_le : (joinFields d p l a).toNat ≤ 255 := by rw [joinFields_toNat hd hp hl ha]; omega

end

/-- A field put back in its place is what its mask keeps. -/
theorem mask_shift_unshift {mask : Word} {k : Nat} (m : Word) (hmask : mask &&& BitVec.allOnes 32 <<< k = mask) :
    ((m &&& mask) >>> k) <<< k = m &&& mask := by
  rw [BitVec.shiftLeft_ushiftRight, BitVec.and_assoc, hmask]

/-- The four fields of a byte, joined again, are the byte under the four masks together. -/
theorem joinFields_fields (m : Word) :
    joinFields (depthField m) (paletteField m) (layoutField m) (accuracyField m) = m &&& 0b11100111#32 := by
  rw [joinFields, depthField, paletteField, layoutField, accuracyField, mask_shift_unshift m (by decide),
    mask_shift_unshift m (by decide), mask_shift_unshift m (by decide), ← BitVec.and_or_distrib_left,
    ← BitVec.and_or_distrib_left, ← BitVec.and_or_distrib_left]
  rfl

/-! The commands. -/

/-- The state after an MF_DECODE of `m`. -/
def State.afterMfDecode (m : Word) (s : State) : State :=
  s.begin.setRes4 (depthField m) (paletteField m) (layoutField m) (accuracyField m)

theorem exec_mfDecode_of_byte {m : Word} (harg : s.arg[0] = m) (hm : m.toNat ≤ 255) :
    exec .mfDecode s = .next (s.afterMfDecode m) := by
  subst harg
  exact finish_checkOperands_of_none _ (firstFault_cons_of_admits (byte_admits.2 hm))

theorem exec_mfEncode_of_legal {d p l a : Word} (h0 : s.arg[0] = d) (h1 : s.arg[1] = p) (h2 : s.arg[2] = l)
    (h3 : s.arg[3] = a) (hd : d.toNat ≤ 2) (hp : p.toNat ≤ 1) (hl : l.toNat ≤ 2) (ha : a.toNat ≤ 1) :
    exec .mfEncode s = .next (s.begin.setRes0 (joinFields d p l a)) := by
  subst h0 h1 h2 h3
  refine finish_checkOperands_of_none _ (firstFault_eq_none.2 ?_)
  simp [depth_admits, flag_admits, layout_admits, hd, hp, hl, ha]

theorem exec_colorcountfor_of_legal (h : s.arg[0].toNat ≤ 2) :
    exec .colorcountfor s = .next (s.begin.setRes0 (BitVec.ofNat 32 (colorCountFor (depthOf s.arg[0])))) :=
  finish_checkOperands_of_none _ (firstFault_cons_of_admits (depth_admits.2 h))

theorem exec_channelcountfor_of_legal (h : s.arg[0].toNat ≤ 2) :
    exec .channelcountfor s = .next (s.begin.setRes0 (BitVec.ofNat 32 (channelCountFor (layoutOf s.arg[0])))) :=
  finish_checkOperands_of_none _ (firstFault_cons_of_admits (layout_admits.2 h))

/-- The table of R152, by the value of the operand. -/
theorem colorCountFor_depthOf_toNat (v : Word) :
    (BitVec.ofNat 32 (colorCountFor (depthOf v))).toNat = if v.toNat = 0 then 2 else if v.toNat = 1 then 4 else 256 := by
  rw [depthOf]
  rcases v.toNat with _ | _ | n
  · rfl
  · rfl
  · simp [colorCountFor]

/-- The table of R153, by the value of the operand. -/
theorem channelCountFor_layoutOf_toNat (v : Word) :
    (BitVec.ofNat 32 (channelCountFor (layoutOf v))).toNat = if v.toNat = 0 then 1 else if v.toNat = 1 then 3 else 4 := by
  rw [layoutOf]
  rcases v.toNat with _ | _ | n
  · rfl
  · rfl
  · simp [channelCountFor]

/-! The statements. -/

/-- Settles O25: the four masks and shifts are divisions, and the byte's check is the only one. -/
theorem mfDecodeTakesTheByteApart : Obligations.MfDecodeTakesTheByteApart := by
  refine fun s => ⟨fun h => ?_, fun h => ?_⟩
  · have hdepth : s.arg[0].toNat / 64 % 4 = s.arg[0].toNat / 64 := Nat.mod_eq_of_lt (by omega)
    exact ⟨_, exec_mfDecode_of_byte rfl h, rfl, (depthField_toNat _).trans hdepth,
      paletteField_toNat _, layoutField_toNat _, accuracyField_toNat _⟩
  · exact finish_checkOperands_of_some _ (firstFault_cons_of_not_admits (byte_rejects h))

/-- Settles O26: legal fields do not overlap; of the four checks, in ARG order, the first that fails raises. -/
theorem mfEncodeJoinsTheFields : Obligations.MfEncodeJoinsTheFields := by
  refine fun s => ⟨fun hd hp hl ha => ?_, fun hd => ?_, fun hd hp => ?_, fun hd hp hl => ?_, fun hd hp hl ha => ?_⟩
  · exact answers_of_exec_eq_setRes0 (exec_mfEncode_of_legal rfl rfl rfl rfl hd hp hl ha) (joinFields_toNat hd hp hl ha)
  · exact finish_checkOperands_of_some _ (firstFault_cons_of_not_admits (depth_rejects hd))
  · exact finish_checkOperands_of_some _ ((firstFault_cons_of_admits (depth_admits.2 hd)).trans
      (firstFault_cons_of_not_admits (flag_rejects hp)))
  · exact finish_checkOperands_of_some _ ((firstFault_cons_of_admits (depth_admits.2 hd)).trans
      ((firstFault_cons_of_admits (flag_admits.2 hp)).trans
        (firstFault_cons_of_not_admits (layout_rejects hl))))
  · exact finish_checkOperands_of_some _ ((firstFault_cons_of_admits (depth_admits.2 hd)).trans
      ((firstFault_cons_of_admits (flag_admits.2 hp)).trans ((firstFault_cons_of_admits (layout_admits.2 hl)).trans
        (firstFault_cons_of_not_admits (flag_rejects ha)))))

/-- Settles O27: each command answers its table where its one check passes. -/
theorem countCommandsAnswerTheTables : Obligations.CountCommandsAnswerTheTables := by
  refine fun s => ⟨fun h => ?_, fun h => ?_, fun h => ?_, fun h => ?_⟩
  · exact answers_of_exec_eq_setRes0 (exec_colorcountfor_of_legal h) (colorCountFor_depthOf_toNat _)
  · exact finish_checkOperands_of_some _ (firstFault_cons_of_not_admits (depth_rejects h))
  · exact answers_of_exec_eq_setRes0 (exec_channelcountfor_of_legal h) (channelCountFor_layoutOf_toNat _)
  · exact finish_checkOperands_of_some _ (firstFault_cons_of_not_admits (layout_rejects h))

/-- Settles O28: each field of the joined byte is the field put in; the fields of a byte that names enumerators pass
MF_ENCODE's checks, and joined they are the byte under the four masks, which leave out bits 4:3. -/
theorem modeByteRoundTrips : Obligations.ModeByteRoundTrips := by
  refine ⟨fun s hd hp hl ha => ?_, fun s hm hdepth hlayout => ?_⟩
  · refine ⟨_, _, exec_mfEncode_of_legal rfl rfl rfl rfl hd hp hl ha,
      exec_mfDecode_of_byte (m := joinFields s.arg[0] s.arg[1] s.arg[2] s.arg[3]) (by simp)
        (joinFields_le hd hp hl ha), ?_⟩
    rw [State.afterMfDecode, State.setRes4_res, depthField_joinFields hd hp hl ha, paletteField_joinFields hd hp hl ha,
      layoutField_joinFields hd hp hl ha, accuracyField_joinFields hd hp hl ha]
  · have hd : (depthField s.arg[0]).toNat ≤ 2 := by rw [depthField_toNat]; omega
    have hp : (paletteField s.arg[0]).toNat ≤ 1 := by rw [paletteField_toNat]; omega
    have hl : (layoutField s.arg[0]).toNat ≤ 2 := by rw [layoutField_toNat]; omega
    have ha : (accuracyField s.arg[0]).toNat ≤ 1 := by rw [accuracyField_toNat]; omega
    exact ⟨_, _, exec_mfDecode_of_byte rfl hm, exec_mfEncode_of_legal rfl rfl rfl rfl hd hp hl ha,
      (Vector.getElem_set_self _).trans (joinFields_fields s.arg[0])⟩

end Sys2Proof.Machine
end

section
/-! PROOFS. The Palette unit: the 2-bit expansion, the default palettes, the three quantizers as one command of a depth, the
colour commands in closed form, a palette entry written and read back, and from these the statements of 42_palette.md. -/

namespace Sys2Proof.Machine

variable {s : State} {c : Color} {i n : Nat}

/-! Operands and results. -/

/-- The fault of a list of checks is that of one of its operands, out of its range. -/
theorem exists_of_firstFault_eq_some {ops : List (OperandKind × Word)} {f : AssertCause} (h : firstFault ops = some f) :
    ∃ o ∈ ops, f = o.1.cause := by
  induction ops with
  | nil => simp [firstFault] at h
  | cons o rest ih =>
    obtain ⟨k, v⟩ := o
    by_cases hk : k.admits v = true
    · obtain ⟨o, ho, hf⟩ := ih ((firstFault_cons_of_admits hk).symm.trans h)
      exact ⟨o, List.mem_cons_of_mem _ ho, hf⟩
    · rw [firstFault_cons_of_not_admits hk] at h
      exact ⟨(k, v), List.mem_cons_self, (Option.some.inj h).symm⟩

theorem firstFault_channelOperands_of_legal (h : ChannelOperands s) : firstFault (channelOperands s) = none := by
  obtain ⟨hr, hg, hb, ha⟩ := h
  refine firstFault_eq_none.2 ?_
  simp [channelOperands, byte_admits, hr, hg, hb, ha]

/-- Whichever channel is out of range, the fault is the same. -/
theorem firstFault_channelOperands_of_illegal (h : ¬ ChannelOperands s) :
    firstFault (channelOperands s) = some .badOperand := by
  cases hfault : firstFault (channelOperands s) with
  | none =>
    have hadmits := firstFault_eq_none.1 hfault
    simp only [channelOperands, List.forall_mem_cons, byte_admits] at hadmits
    obtain ⟨hr, hg, hb, ha, -⟩ := hadmits
    exact absurd ⟨hr, hg, hb, ha⟩ h
  | some f =>
    obtain ⟨o, ho, rfl⟩ := exists_of_firstFault_eq_some hfault
    have hkind : o.1 = .byte := by
      simp only [channelOperands, List.mem_cons, List.not_mem_nil, or_false] at ho
      rcases ho with rfl | rfl | rfl | rfl <;> rfl
    rw [hkind]
    rfl

/-- A command that needs an image goes on, where there is one, in the state with the status cleared. -/
theorem finish_needImage_of_image (f : Unit → State → Run Unit) (h : s.imgValid = true) :
    ((needImage s.begin).andThen f).finish = (f () s.begin).finish := by
  rw [(needImage_eq_done (s := s.begin)).2 ⟨h, rfl⟩, Run.done_andThen]

/-- Without one it raises NO_IMAGE, whatever it would do after the check. -/
theorem finish_needImage_of_noImage (f : Unit → State → Run Unit) (h : s.imgValid = false) :
    ∃ t, ((needImage s.begin).andThen f).finish = .next t ∧ RaisedOnly 15 6 s t := by
  rw [(needImage_eq_raised (s := s.begin)).2 ⟨h, rfl, rfl⟩, Run.raised_andThen]
  exact ⟨_, rfl, raisedOnly_raise (x := .assert .noImage) (by simp)⟩

/-- The state after a command that answered with a Color. -/
def State.afterColor (c : Color) (s : State) : State := s.begin.setResColor c

theorem State.afterColor_answered (c : Color) (s : State) : AnsweredOnly s (s.afterColor c) := rfl

theorem channel_toNat (x : Byte) : (x.setWidth 32 : Word).toNat = x.toNat :=
  BitVec.toNat_setWidth_of_le (by decide)

theorem State.afterColor_holds (c : Color) (s : State) : ResHolds c (s.afterColor c) :=
  ⟨channel_toNat c.r, channel_toNat c.g, channel_toNat c.b, channel_toNat c.a⟩

/-! The default palettes (R173, R178 to R180). -/

/-- The four terms of the expansion do not overlap: it is `v` times `1 + 4 + 16 + 64`. -/
theorem expand2_toNat (v : BitVec 2) : (expand2 v).toNat = 85 * v.toNat := by revert v; decide

theorem depthOf_eq (v : Word) : depthOf v = depthNamed v.toNat := rfl

theorem def1_is (h : i < 2) : (def1 i).Is (255 * i) (255 * i) (255 * i) 255 := by
  obtain rfl | rfl : i = 0 ∨ i = 1 := by omega
  · exact ⟨rfl, rfl, rfl, rfl⟩
  · exact ⟨rfl, rfl, rfl, rfl⟩

theorem def2_is (h : i < 4) : (def2 i).Is (85 * i) (85 * i) (85 * i) 255 := by
  have hlevel : (expand2 (BitVec.ofNat 2 i)).toNat = 85 * i := by
    rw [expand2_toNat, BitVec.toNat_ofNat, Nat.mod_eq_of_lt h]
  exact ⟨hlevel, hlevel, hlevel, rfl⟩

theorem def8_is (h : i < 256) :
    (def8 i).Is (85 * (i % 4)) (85 * (i / 4 % 4)) (85 * (i / 16 % 4)) (85 * (i / 64 % 4)) := by
  have hlevel (k : Nat) : (expand2 ((BitVec.ofNat 8 i).extractLsb' k 2)).toNat = 85 * (i / 2 ^ k % 4) := by
    rw [expand2_toNat, BitVec.extractLsb'_toNat, BitVec.toNat_ofNat, Nat.mod_eq_of_lt h, Nat.shiftRight_eq_div_pow]
  exact ⟨(hlevel 0).trans (by simp), hlevel 2, hlevel 4, hlevel 6⟩

/-- The default palettes as R178 to R180 list them. -/
theorem isDefaultColor_defaultEntry (h : i < colorCountFor (depthNamed n)) :
    IsDefaultColor n i (defaultEntry (depthNamed n) i) := by
  match n with
  | 0 => exact def1_is h
  | 1 => exact def2_is h
  | n + 2 =>
    rw [IsDefaultColor, if_neg (by omega), if_neg (by omega)]
    exact def8_is h

theorem defaultPalette_getElem?_of_lt {d : PixelDepth} (h : i < colorCountFor d) :
    (defaultPalette d)[i]? = some (defaultEntry d i) := by
  simp [defaultPalette, h]

theorem defaultPalette_getElem?_of_ge {d : PixelDepth} (h : colorCountFor d ≤ i) : (defaultPalette d)[i]? = none :=
  List.getElem?_eq_none ((defaultPalette_length d).trans_le h)

/-! The quantizers (R174 to R176, R186). -/

/-- The quantizer of a depth. -/
def quantizer : PixelDepth → Instr
  | .oneBit => .quant1
  | .twoBit => .quant2
  | .eightBit => .quant8

/-- Its index rule. -/
def quantizeRule : PixelDepth → Word → Word → Word → Word → Word
  | .oneBit => quantizeOneBit
  | .twoBit => quantizeTwoBit
  | .eightBit => quantizeEightBit

/-- What a quantizer does: the checks of its operands, then the index to RES[0]. -/
def quantize (d : PixelDepth) (s : State) : Run Unit :=
  (checkOperands (channelOperands s) s.begin).andThen fun _ s =>
    .done () (s.setRes0 (quantizeRule d s.arg[0] s.arg[1] s.arg[2] s.arg[3]))

theorem exec_quantizer (d : PixelDepth) (s : State) : exec (quantizer d) s = (quantize d s).finish := by
  cases d <;> rfl

theorem exec_quantizer_of_channels (d : PixelDepth) (h : ChannelOperands s) :
    exec (quantizer d) s = .next (s.begin.setRes0 (quantizeRule d s.arg[0] s.arg[1] s.arg[2] s.arg[3])) :=
  (exec_quantizer d s).trans (finish_checkOperands_of_none _ (firstFault_channelOperands_of_legal h))

theorem exec_quantizer_of_not_channels (d : PixelDepth) (h : ¬ ChannelOperands s) :
    ∃ t, exec (quantizer d) s = .next t ∧ RaisedOnly 15 10 s t :=
  exec_quantizer d s ▸ finish_checkOperands_of_some _ (firstFault_channelOperands_of_illegal h)

theorem mem_quantizers {i : Instr} (h : i ∈ [Instr.quant1, .quant2, .quant8]) : ∃ d, i = quantizer d := by
  simp only [List.mem_cons, List.not_mem_nil, or_false] at h
  rcases h with rfl | rfl | rfl
  · exact ⟨.oneBit, rfl⟩
  · exact ⟨.twoBit, rfl⟩
  · exact ⟨.eightBit, rfl⟩

section
variable {r g b a : Word}

/-- The bitwise OR reaches bit 7 or beyond exactly when one of the channels does. -/
theorem le_toNat_or_or : 128 ≤ (r ||| g ||| b).toNat ↔ 128 ≤ r.toNat ∨ 128 ≤ g.toNat ∨ 128 ≤ b.toNat := by
  have hor (x y : Nat) : 2 ^ 7 ≤ x ||| y ↔ 2 ^ 7 ≤ x ∨ 2 ^ 7 ≤ y := by
    refine ⟨fun h => ?_, ?_⟩
    · by_contra hlt
      rw [not_or, not_le, not_le] at hlt
      exact absurd (Nat.or_lt_two_pow hlt.1 hlt.2) (not_lt.2 h)
    · rintro (h | h)
      · exact h.trans Nat.left_le_or
      · exact h.trans Nat.right_le_or
  rw [BitVec.toNat_or, BitVec.toNat_or, ← or_assoc]
  exact (hor _ _).trans (or_congr_left (hor _ _))

theorem quantizeOneBit_toNat : (quantizeOneBit r g b a).toNat =
    if (128 ≤ r.toNat ∨ 128 ≤ g.toNat ∨ 128 ≤ b.toNat) ∧ 128 ≤ a.toNat then 1 else 0 := by
  simp only [quantizeOneBit, ← le_toNat_or_or (r := r)]
  by_cases h : 128 ≤ (r ||| g ||| b).toNat ∧ 128 ≤ a.toNat
  · rw [if_pos h, if_neg (by omega)]
    rfl
  · rw [if_neg h, if_pos (by omega)]
    rfl

theorem shiftRight_six_toNat (m : Word) : (m >>> 6).toNat = m.toNat / 64 := by
  rw [BitVec.toNat_ushiftRight, Nat.shiftRight_eq_div_pow]

theorem quantizeTwoBit_toNat : (quantizeTwoBit r g b a).toNat =
    if a.toNat < 128 then 0 else r.toNat / 64 ||| g.toNat / 64 ||| b.toNat / 64 := by
  rw [quantizeTwoBit]
  split
  · rfl
  · rw [BitVec.ushiftRight_or_distrib, BitVec.ushiftRight_or_distrib, BitVec.toNat_or, BitVec.toNat_or,
      shiftRight_six_toNat, shiftRight_six_toNat, shiftRight_six_toNat]

/-- The top two bits of a byte, in their place. -/
theorem topBits_toNat {m : Word} (hm : m.toNat ≤ 255) : (m &&& 0xC0#32).toNat = 64 * (m.toNat / 64) := by
  have hfield : (depthField m).toNat = m.toNat / 64 := by rw [depthField_toNat]; omega
  have hplace : m &&& 0xC0#32 = depthField m <<< 6 := (mask_shift_unshift m (by decide)).symm
  rw [hplace, ← hfield]
  exact toNat_shiftLeft_of_lt (by omega)

/-- The four 2-bit fields do not overlap, so that joining them is their sum. -/
theorem quantizeEightBit_toNat (hr : r.toNat ≤ 255) (hg : g.toNat ≤ 255) (hb : b.toNat ≤ 255) (ha : a.toNat ≤ 255) :
    (quantizeEightBit r g b a).toNat =
      r.toNat / 64 + 4 * (g.toNat / 64) + 16 * (b.toNat / 64) + 64 * (a.toNat / 64) := by
  have hr0 : (r >>> 6).toNat = r.toNat / 64 := shiftRight_six_toNat r
  have hg2 : ((g &&& 0xC0#32) >>> 4).toNat = 4 * (g.toNat / 64) := by
    rw [BitVec.toNat_ushiftRight, topBits_toNat hg, Nat.shiftRight_eq_div_pow]; omega
  have hb4 : ((b &&& 0xC0#32) >>> 2).toNat = 16 * (b.toNat / 64) := by
    rw [BitVec.toNat_ushiftRight, topBits_toNat hb, Nat.shiftRight_eq_div_pow]; omega
  have ha6 : (a &&& 0xC0#32).toNat = 64 * (a.toNat / 64) := topBits_toNat ha
  have hrg : (r >>> 6 ||| (g &&& 0xC0#32) >>> 4).toNat = r.toNat / 64 + 4 * (g.toNat / 64) := by
    rw [BitVec.or_comm, toNat_or_of_lt (k := 2) hg2 (by omega), hg2, hr0, Nat.add_comm]
  have hrgb : (r >>> 6 ||| (g &&& 0xC0#32) >>> 4 ||| (b &&& 0xC0#32) >>> 2).toNat =
      r.toNat / 64 + 4 * (g.toNat / 64) + 16 * (b.toNat / 64) := by
    rw [BitVec.or_comm, toNat_or_of_lt (k := 4) hb4 (by omega), hb4, hrg, Nat.add_comm]
  rw [quantizeEightBit, BitVec.or_comm, toNat_or_of_lt (k := 6) ha6 (by omega), ha6, hrgb, Nat.add_comm]

end

/-- Settles O31: one comparison of the OR with 128 is the three comparisons of the channels. -/
theorem quantOneFollowsItsRule : Obligations.QuantOneFollowsItsRule := fun _ =>
  ⟨fun h => answers_of_exec_eq_setRes0 (exec_quantizer_of_channels .oneBit h) quantizeOneBit_toNat,
    exec_quantizer_of_not_channels .oneBit⟩

/-- Settles O32: the shift of the OR is the OR of the shifts. -/
theorem quantTwoFollowsItsRule : Obligations.QuantTwoFollowsItsRule := fun _ =>
  ⟨fun h => answers_of_exec_eq_setRes0 (exec_quantizer_of_channels .twoBit h) quantizeTwoBit_toNat,
    exec_quantizer_of_not_channels .twoBit⟩

/-- Settles O33: the four fields of the index do not overlap. -/
theorem quantEightFollowsItsRule : Obligations.QuantEightFollowsItsRule := fun _ =>
  ⟨fun h@⟨hr, hg, hb, ha⟩ => answers_of_exec_eq_setRes0 (exec_quantizer_of_channels .eightBit h)
      (quantizeEightBit_toNat hr hg hb ha),
    exec_quantizer_of_not_channels .eightBit⟩

/-- Settles O34: the checks and the rule of a quantizer are functions of its four operands. -/
theorem quantizersReadOnlyTheirOperands : Obligations.QuantizersReadOnlyTheirOperands := by
  intro i hi s s' h hr hg hb ha
  obtain ⟨d, rfl⟩ := mem_quantizers hi
  have h' : ChannelOperands s' := by rwa [ChannelOperands, hr, hg, hb, ha]
  refine ⟨_, _, exec_quantizer_of_channels d h, exec_quantizer_of_channels d h', ?_⟩
  simp [hr, hg, hb, ha]

/-! COLOR, DEFCOLOR and LOADDEFPAL (R177, R181, R182). -/

theorem exec_color_of_image (h : s.imgValid = true) :
    exec .color s = .next (s.afterColor (currentColor s s.arg[0].toNat)) :=
  finish_needImage_of_image _ h

theorem exec_defcolor_of_legal (h : s.arg[0].toNat ≤ 2) :
    exec .defcolor s = .next (s.afterColor (defaultColor (depthOf s.arg[0]) s.arg[1].toNat)) :=
  finish_checkOperands_of_none _ (firstFault_cons_of_admits (depth_admits.2 h))

/-- The state after a LOADDEFPAL of `d`. -/
def State.afterLoaddefpal (d : PixelDepth) (s : State) : State :=
  { s.begin with imgValid := false, palram := Memory.writeAll unlistedColor 0 (defaultPalette d) s.palram }

theorem exec_loaddefpal_of_legal (h : s.arg[0].toNat ≤ 2) :
    exec .loaddefpal s = .next (s.afterLoaddefpal (depthOf s.arg[0])) :=
  finish_checkOperands_of_none _ (firstFault_cons_of_admits (depth_admits.2 h))

/-- Entry `i` of PALRAM after a palette was written from entry 0 on. -/
theorem palEntry_writeAll {pal : List Color} {m : List (Nat × Color)} (hwf : Memory.wf unlistedColor m) (i : Nat) :
    palEntry (Memory.writeAll unlistedColor 0 pal m) i = pal[i]?.getD (palEntry m i) := by
  simp [palEntry, Memory.read_writeAll pal hwf]

theorem currentColor_of_lt (h : i < colorCountFor s.depth) : currentColor s i = palEntry s.palram i := if_pos h

theorem currentColor_of_ge (h : colorCountFor s.depth ≤ i) : currentColor s i = Color.sentinel :=
  if_neg (Nat.not_lt.2 h)

theorem defaultColor_of_lt {d : PixelDepth} (h : i < colorCountFor d) : defaultColor d i = defaultEntry d i := if_pos h

theorem defaultColor_of_ge {d : PixelDepth} (h : colorCountFor d ≤ i) : defaultColor d i = Color.sentinel :=
  if_neg (Nat.not_lt.2 h)

/-- Settles O35: the check that there is an image, and the two cases of the palette's lookup. -/
theorem colorLooksUpTheCurrentPalette : Obligations.ColorLooksUpTheCurrentPalette := by
  refine fun s => ⟨fun h => ⟨_, exec_color_of_image h, State.afterColor_answered _ s, fun hlt => ?_, fun hge => ?_⟩,
    finish_needImage_of_noImage _⟩
  · rw [currentColor_of_lt hlt]
    exact State.afterColor_holds _ s
  · rw [currentColor_of_ge hge]
    rfl

/-- Settles O36: the check of the depth, and the two cases of the default palette's lookup. -/
theorem defcolorLooksUpTheDefaultPalettes : Obligations.DefcolorLooksUpTheDefaultPalettes := by
  refine fun s => ⟨fun h => ⟨_, _, exec_defcolor_of_legal h, State.afterColor_answered _ s, State.afterColor_holds _ s,
    fun hlt => ?_, fun hge => ?_⟩, fun h => ?_⟩
  · rw [ccOf_eq] at hlt
    rw [depthOf_eq, defaultColor_of_lt hlt]
    exact isDefaultColor_defaultEntry hlt
  · rw [ccOf_eq] at hge
    rw [depthOf_eq, defaultColor_of_ge hge]
    exact ⟨rfl, rfl, rfl, rfl⟩
  · exact finish_checkOperands_of_some _ (firstFault_cons_of_not_admits (depth_rejects h))

/-- Settles O37: the palette is written from entry 0 on, and its length is the colour count. -/
theorem loaddefpalCopiesTheDefaultPalette : Obligations.LoaddefpalCopiesTheDefaultPalette := by
  refine fun s => ⟨fun h hwf => ⟨_, exec_loaddefpal_of_legal h, fun i hlt => ?_, fun i hge => ?_, rfl⟩, fun h => ?_⟩
  · rw [ccOf_eq] at hlt
    rw [State.afterLoaddefpal, palEntry_writeAll hwf, depthOf_eq, defaultPalette_getElem?_of_lt hlt]
    exact isDefaultColor_defaultEntry hlt
  · rw [ccOf_eq] at hge
    rw [State.afterLoaddefpal, palEntry_writeAll hwf, depthOf_eq, defaultPalette_getElem?_of_ge hge]
    rfl
  · exact finish_checkOperands_of_some _ (firstFault_cons_of_not_admits (depth_rejects h))

/-! The default palettes under the quantizers (R185). -/

/-- A quantizer's rule on the channels of a Color, zero-extended as RES and ARG hold them. -/
def quantizeColor (d : PixelDepth) (c : Color) : Word :=
  quantizeRule d (c.r.setWidth 32) (c.g.setWidth 32) (c.b.setWidth 32) (c.a.setWidth 32)

/-- The top two bits of an expanded 2-bit value are the value. -/
theorem level_div_64 {v : Nat} (h : v < 4) : 85 * v / 64 = v := by omega

theorem quantizeColor_defaultEntry {d : PixelDepth} (h : i < colorCountFor d) :
    (quantizeColor d (defaultEntry d i)).toNat = i := by
  cases d with
  | oneBit =>
    obtain ⟨hr, hg, hb, ha⟩ := def1_is h
    have hi : i < 2 := h
    simp only [quantizeColor, quantizeRule, quantizeOneBit_toNat, channel_toNat, defaultEntry, hr, hg, hb, ha]
    split <;> omega
  | twoBit =>
    obtain ⟨hr, hg, hb, ha⟩ := def2_is h
    have hi : i < 4 := h
    simp only [quantizeColor, quantizeRule, quantizeTwoBit_toNat, channel_toNat, defaultEntry, hr, hg, hb, ha,
      level_div_64 hi]
    simp
  | eightBit =>
    obtain ⟨hr, hg, hb, ha⟩ := def8_is h
    have hi : i < 256 := h
    have hbyte (x : Byte) : (x.setWidth 32 : Word).toNat ≤ 255 := channel_toNat x ▸ Nat.le_of_lt_succ x.isLt
    rw [quantizeColor, quantizeRule, quantizeEightBit_toNat (hbyte _) (hbyte _) (hbyte _) (hbyte _)]
    simp only [channel_toNat, defaultEntry, hr, hg, hb, ha, level_div_64 (Nat.mod_lt _ (Nat.zero_lt_succ 3))]
    omega

theorem quantizer_depthNamed {d : Nat} :
    quantizer (depthNamed d) = if d = 0 then .quant1 else if d = 1 then .quant2 else .quant8 := by
  match d with
  | 0 | 1 | d + 2 => rfl

/-- ARG with the result of a command in ARG[0] to ARG[3], as a host that passes a Color on writes it. -/
def State.passResult (s : State) : State := { s with arg := #v[s.res[0], s.res[1], s.res[2], s.res[3], 0, 0] }

theorem passResult_channelOperands (h : ResHolds c s) : ChannelOperands s.passResult := by
  obtain ⟨hr, hg, hb, ha⟩ := h
  exact ⟨hr.trans_le (Nat.le_of_lt_succ c.r.isLt), hg.trans_le (Nat.le_of_lt_succ c.g.isLt),
    hb.trans_le (Nat.le_of_lt_succ c.b.isLt), ha.trans_le (Nat.le_of_lt_succ c.a.isLt)⟩

theorem exec_quantizer_passResult (d : PixelDepth) (c : Color) (s : State) :
    exec (quantizer d) (s.afterColor c).passResult =
      .next ((s.afterColor c).passResult.begin.setRes0 (quantizeColor d c)) :=
  exec_quantizer_of_channels d (passResult_channelOperands (s.afterColor_holds c))

/-- Operands below `2 ^ 32` are in ARG as they are. -/
theorem State.withArg01_toNat {v w : Nat} (hv : v < 2 ^ 32) (hw : w < 2 ^ 32) (s : State) :
    (s.withArg01 v w).arg[0].toNat = v ∧ (s.withArg01 v w).arg[1].toNat = w := by
  simpa [State.withArg01] using ⟨hv, hw⟩

/-- Settles O38: the levels of each default palette are far enough apart for the rule of its depth. -/
theorem defaultPalettesQuantizeToTheirIndices : Obligations.DefaultPalettesQuantizeToTheirIndices := by
  intro s d i hd hi
  rw [ccOf_eq] at hi
  have hcount := colorCountFor_le (depthNamed d)
  obtain ⟨hd0, hi1⟩ := s.withArg01_toNat (v := d) (w := i) (by omega) (by omega)
  have hdefcolor := exec_defcolor_of_legal (hd0.trans_le hd)
  rw [depthOf_eq, hd0, hi1, defaultColor_of_lt hi] at hdefcolor
  refine ⟨_, _, hdefcolor, quantizer_depthNamed ▸ exec_quantizer_passResult _ _ _, rfl, ?_⟩
  exact (congrArg BitVec.toNat (Vector.getElem_set_self _)).trans (quantizeColor_defaultEntry hi)

/-! A palette entry written and read back (R183 to R185). -/

/-- BUF with values written from position `p` on, each as a field of `w` bits. -/
def fieldsWritten (w : Nat) : List Nat → List Host.Cell → Nat → List Host.Cell
  | [], m, _ => m
  | v :: vs, m, p => fieldsWritten w vs (memWrite m p v w) (p + w)

/-- Bits before the first field and after the last keep their values. -/
theorem bufBit_fieldsWritten_outside {w : Nat} (vs : List Nat) {m : List Host.Cell} {p q : Nat}
    (hwf : Memory.wf unlistedByte m) (hq : q < p ∨ p + vs.length * w ≤ q) :
    bufBit (fieldsWritten w vs m p) q = bufBit m q := by
  induction vs generalizing m p with
  | nil => rfl
  | cons v vs ih =>
    rw [List.length_cons, Nat.succ_mul] at hq
    rw [fieldsWritten, ih (wf_memWrite v w hwf) (by omega), bufBit_memWrite v w hwf, if_neg (by omega)]

/-- Fields written one after the other are all there at the end. -/
theorem fieldsAt_fieldsWritten {w : Nat} (vs : List Nat) {m : List Host.Cell} {p : Nat}
    (hwf : Memory.wf unlistedByte m) (hvs : ∀ v ∈ vs, v < 2 ^ w) :
    fieldsAt (fun m p => memRead m p w) w vs.length (fieldsWritten w vs m p) p = vs := by
  induction vs generalizing m p with
  | nil => rfl
  | cons v vs ih =>
    have hv : v < 2 ^ w := hvs v List.mem_cons_self
    have hfirst : memRead (fieldsWritten w (v :: vs) m p) p w = v := by
      refine Eq.trans ?_ ((memRead_memWrite hwf p v w).trans (Nat.mod_eq_of_lt hv))
      exact memRead_congr fun q _ hq => bufBit_fieldsWritten_outside vs (wf_memWrite v w hwf) (.inl hq)
    rw [List.length_cons, fieldsAt_succ, hfirst, fieldsWritten,
      ih (wf_memWrite v w hwf) fun v' hv' => hvs v' (List.mem_cons_of_mem _ hv')]

theorem storedValue_eq_keptValue (acc : ChannelAccuracy) (x : Byte) : storedValue acc x = keptValue acc x := by
  cases acc with
  | twoBit => rw [storedValue, BitVec.toNat_ushiftRight, Nat.shiftRight_eq_div_pow, keptValue]
  | eightBit => rfl

theorem keptValue_lt (acc : ChannelAccuracy) (x : Byte) : keptValue acc x < 2 ^ bitsPerChannelFor acc := by
  cases acc with
  | twoBit => exact Nat.div_lt_of_lt_mul x.isLt
  | eightBit => exact x.isLt

theorem storedValue_lt (acc : ChannelAccuracy) (x : Byte) : storedValue acc x < 2 ^ bitsPerChannelFor acc :=
  storedValue_eq_keptValue acc x ▸ keptValue_lt acc x

theorem bitsPerChannelFor_pos (acc : ChannelAccuracy) : 1 ≤ bitsPerChannelFor acc := by cases acc <;> decide
theorem bitsPerChannelFor_le (acc : ChannelAccuracy) : bitsPerChannelFor acc ≤ 32 := by cases acc <;> decide

/-- Where there is room for them, channels are written as fields of the accuracy's width. -/
theorem writeChannels_of_room (acc : ChannelAccuracy) (cs : List Byte)
    (h : s.pos + cs.length * bitsPerChannelFor acc ≤ 8 * s.bufLen) :
    writeChannels acc cs s = .done () { s with
      buf := fieldsWritten (bitsPerChannelFor acc) (cs.map (storedValue acc)) s.buf s.pos
      pos := s.pos + cs.length * bitsPerChannelFor acc } := by
  induction cs generalizing s with
  | nil => simp [writeChannels, fieldsWritten]
  | cons x cs ih =>
    rw [List.length_cons, Nat.succ_mul] at h
    rw [writeChannels, writeBits_of_room (bitsPerChannelFor_pos acc) (bitsPerChannelFor_le acc) (storedValue_lt acc x)
      (by omega), Run.done_andThen, ih (by simp only [State.advance_pos, State.advance_bufLen]; omega)]
    have hpos : s.pos + bitsPerChannelFor acc + cs.length * bitsPerChannelFor acc =
        s.pos + (x :: cs).length * bitsPerChannelFor acc := by rw [List.length_cons, Nat.succ_mul]; omega
    rw [State.advance_pos, hpos]
    rfl

theorem storedChannels_length (l : ChannelLayout) (c : Color) : (storedChannels l c).length = channelCountFor l := by
  cases l <;> rfl

/-- A channel that comes back from its stored value (R185). -/
theorem channelValue_storedValue_toNat (acc : ChannelAccuracy) (x : Byte) :
    (channelValue acc (storedValue acc x)).toNat = returnedChannel acc x := by
  rw [storedValue_eq_keptValue]
  cases acc with
  | twoBit =>
    have hfield : (BitVec.ofNat 2 (keptValue .twoBit x)).toNat = keptValue .twoBit x :=
      Nat.mod_eq_of_lt (keptValue_lt .twoBit x)
    exact (expand2_toNat _).trans (congrArg (85 * ·) hfield)
  | eightBit => simp [channelValue, keptValue, returnedChannel]

/-- The Color of channels that come back is the Color R185 says. -/
theorem isReturnedColor_colorOfChannels (l : ChannelLayout) (acc : ChannelAccuracy) (c : Color) :
    IsReturnedColor l acc c
      (colorOfChannels l ((storedChannels l c).map fun x => channelValue acc (storedValue acc x))) := by
  have hback := channelValue_storedValue_toNat acc
  cases l with
  | grayscale => exact ⟨hback c.r, hback c.r, hback c.r, rfl⟩
  | rgb => exact ⟨hback c.r, hback c.g, hback c.b, rfl⟩
  | rgba => exact ⟨hback c.r, hback c.g, hback c.b, hback c.a⟩

/-- BUF with a palette entry written at position `p`. -/
def entryWritten (c : Color) (l : ChannelLayout) (acc : ChannelAccuracy) (m : List Host.Cell) (p : Nat) :
    List Host.Cell :=
  fieldsWritten (bitsPerChannelFor acc) ((storedChannels l c).map (storedValue acc)) m p

theorem writeEntry_of_room (c : Color) {l : ChannelLayout} {acc : ChannelAccuracy}
    (h : s.pos + entryBits l acc ≤ 8 * s.bufLen) :
    writeEntry c l acc s =
      .done () { s with buf := entryWritten c l acc s.buf s.pos, pos := s.pos + entryBits l acc } := by
  rw [entryBits, ← storedChannels_length l c] at h ⊢
  exact writeChannels_of_room acc (storedChannels l c) h

/-- The entry at the position it was written at. -/
theorem entryAt_entryWritten (c : Color) (l : ChannelLayout) (acc : ChannelAccuracy) {m : List Host.Cell} {p : Nat}
    (hwf : Memory.wf unlistedByte m) :
    entryAt l acc (entryWritten c l acc m p) p =
      colorOfChannels l ((storedChannels l c).map fun x => channelValue acc (storedValue acc x)) := by
  have hstored : ∀ v ∈ (storedChannels l c).map (storedValue acc), v < 2 ^ bitsPerChannelFor acc := by
    simp [storedValue_lt]
  have hfields := congrArg (List.map (channelValue acc)) (fieldsAt_fieldsWritten (p := p) _ hwf hstored)
  rw [List.length_map, storedChannels_length, fieldsAt, List.map_map, List.map_map] at hfields
  exact congrArg (colorOfChannels l) hfields

/-- Settles O39: the read meets the fields the write left, and each stored value is a channel again. -/
theorem paletteEntryReadsBack : Obligations.PaletteEntryReadsBack := by
  intro s c l acc hwf hroom
  refine ⟨_, _, _, writeEntry_of_room c hroom, (readEntry_readsField l acc).reads _ hroom, rfl, ?_⟩
  rw [entryAt_entryWritten c l acc hwf]
  exact isReturnedColor_colorOfChannels l acc c

end Sys2Proof.Machine
end

section
/-! PROOFS. DECODE and COLORAT: the image an accepted stream leaves, each way DECODE rejects a stream with the position it stops
at, that these are all its endings, and from these the statements of 43_imagecodec_decode.md. -/

namespace Sys2Proof.Machine

variable {α β : Type} {s : State} {m : List Host.Cell} {i k n : Nat}

/-! The fields of the image (R206). -/

theorem depthNamed_code (h : n ≤ 2) : (depthNamed n).code = n := by
  match n with
  | 0 | 1 | 2 => rfl

theorem layoutNamed_code (h : n ≤ 2) : (layoutNamed n).code = n := by
  match n with
  | 0 | 1 | 2 => rfl

theorem accuracyNamed_code (h : n < 2) : (accuracyNamed n).code = n := by
  match n with
  | 0 | 1 => rfl

theorem bne_zero_toNat (h : n < 2) : (n != 0).toNat = n := by
  match n with
  | 0 | 1 => rfl

theorem streamDepth_le (h : streamDepth m ≠ 3) : streamDepth m ≤ 2 := by
  have hlt : streamDepth m < 2 ^ 2 := streamDepth_eq m ▸ memRead_lt m 2 56
  omega

theorem streamLayout_le (h : streamLayout m ≠ 3) : streamLayout m ≤ 2 := by
  have hlt : streamLayout m < 4 := Nat.mod_lt _ (by decide)
  omega

theorem streamAccuracy_lt (m : List Host.Cell) : streamAccuracy m < 2 := Nat.mod_lt _ (by decide)

theorem streamHeader_width (m : List Host.Cell) : (streamHeader m).w.toNat = streamWidth m :=
  Nat.mod_eq_of_lt (streamWidth_lt m)

theorem streamHeader_height (m : List Host.Cell) : (streamHeader m).h.toNat = streamHeight m :=
  Nat.mod_eq_of_lt (streamHeight_lt m)

theorem fieldsAt_length (val : List Host.Cell → Nat → α) (w n : Nat) (m : List Host.Cell) (p : Nat) :
    (fieldsAt val w n m p).length = n := by simp [fieldsAt]

theorem fieldsAt_getElem?_of_lt (val : List Host.Cell → Nat → α) (w : Nat) (m : List Host.Cell) (p : Nat) (h : i < n) :
    (fieldsAt val w n m p)[i]? = some (val m (p + i * w)) := by simp [fieldsAt, h]

/-! The palette of the image (R204). -/

/-- A stored channel stands for the value R98 says. -/
theorem channelValue_accuracyNamed_toNat {a v : Nat} (h : v < 2 ^ bpcOf a) :
    (channelValue (accuracyNamed a) v).toNat = channelOf a v := by
  match a with
  | 0 =>
    have hfield : (BitVec.ofNat 2 v).toNat = v := Nat.mod_eq_of_lt h
    exact (expand2_toNat _).trans (by rw [hfield, Nat.mul_comm]; rfl)
  | a + 1 => exact Nat.mod_eq_of_lt h

/-- Channel `j` of entry `i`, `j` channels into the entry, is at the offset of R97. -/
theorem channelAt_streamChannel (m : List Host.Cell) (i j : Nat) :
    (channelAt (streamHeader m).acc m (88 + i * entryBits (streamHeader m).l (streamHeader m).acc +
      j * bitsPerChannelFor (streamHeader m).acc)).toNat = streamChannel m i j := by
  have hoffset : 88 + i * entryBits (streamHeader m).l (streamHeader m).acc + j * bitsPerChannelFor (streamHeader m).acc =
      88 + (i * chOf (streamLayout m) + j) * bpcOf (streamAccuracy m) := by
    rw [chOf_eq, bpcOf_eq, Nat.add_mul, Nat.mul_assoc, Nat.add_assoc]
    rfl
  have hwidth : bitsPerChannelFor (streamHeader m).acc = bpcOf (streamAccuracy m) := (bpcOf_eq _).symm
  rw [hoffset, channelAt, hwidth]
  exact channelValue_accuracyNamed_toNat (memRead_lt m _ _)

/-- Entry `i` of the embedded palette. -/
theorem isStreamColor_entryAt (m : List Host.Cell) (i : Nat) :
    IsStreamColor m i (entryAt (streamHeader m).l (streamHeader m).acc m
      (88 + i * entryBits (streamHeader m).l (streamHeader m).acc)) := by
  have hchannel := channelAt_streamChannel m i
  generalize 88 + i * entryBits (streamHeader m).l (streamHeader m).acc = p at hchannel ⊢
  rw [IsStreamColor]
  split
  · next hgray =>
    have hl : (streamHeader m).l = .grayscale := congrArg layoutNamed hgray
    rw [hl]
    exact ⟨hchannel 0, hchannel 0, hchannel 0, rfl⟩
  · split
    · next hrgb =>
      have hl : (streamHeader m).l = .rgb := congrArg layoutNamed hrgb
      rw [hl]
      exact ⟨hchannel 0, hchannel 1, hchannel 2, rfl⟩
    · have hrgba : streamLayout m = streamLayout m - 2 + 2 := by omega
      have hl : (streamHeader m).l = .rgba := congrArg layoutNamed hrgba
      rw [hl]
      exact ⟨hchannel 0, hchannel 1, hchannel 2, hchannel 3⟩

theorem streamVars_pal_length (m : List Host.Cell) : (streamVars m).pal.length = ccOf (streamDepth m) := by
  rw [ccOf_eq]
  change ((streamHeader m).palAt m 88).length = colorCountFor (streamHeader m).d
  rw [StepVars.palAt]
  split
  · exact fieldsAt_length _ _ _ _ _
  · exact defaultPalette_length _

theorem streamHeader_p (m : List Host.Cell) : (streamHeader m).p = true ↔ streamPalette m = 1 := by
  have hlt := streamPalette_lt m
  simp only [streamHeader, bne_iff_ne]
  omega

/-- The palette of the image is the stream's, or the default one where the stream has none. -/
theorem palEntry_decoded (hwf : Memory.wf unlistedColor s.palram) (hi : i < ccOf (streamDepth s.buf)) :
    if streamPalette s.buf = 1 then IsStreamColor s.buf i (palEntry s.decoded.palram i)
    else IsDefaultColor (streamDepth s.buf) i (palEntry s.decoded.palram i) := by
  have hi : i < colorCountFor (streamHeader s.buf).d := ccOf_eq _ ▸ hi
  have hentry : palEntry s.decoded.palram i = ((streamHeader s.buf).palAt s.buf 88)[i]?.getD (palEntry s.palram i) :=
    palEntry_writeAll hwf i
  rw [hentry, StepVars.palAt]
  simp only [streamHeader_p]
  split
  · rw [fieldsAt_getElem?_of_lt _ _ _ _ hi]
    exact isStreamColor_entryAt s.buf i
  · exact defaultPalette_getElem?_of_lt hi ▸ isDefaultColor_defaultEntry hi

theorem palEntry_decoded_of_ge (hwf : Memory.wf unlistedColor s.palram) (hi : ccOf (streamDepth s.buf) ≤ i) :
    palEntry s.decoded.palram i = palEntry s.palram i := by
  have hlen : (streamVars s.buf).pal.length ≤ i := (streamVars_pal_length _).trans_le hi
  simp [State.decoded, palEntry_writeAll hwf, List.getElem?_eq_none hlen]

/-! The pixels of the image (R205). -/

theorem streamVars_pix (m : List Host.Cell) : (streamVars m).pix =
    fieldsAt (pixelAt (bppOf (streamDepth m))) (bppOf (streamDepth m)) (streamPixels m) m (streamP0 m) := by
  rw [bppOf_eq, ← streamHeader_pixels]
  rfl

theorem bppOf_le (n : Nat) : bppOf n ≤ 8 := by
  rw [bppOf]
  split
  · decide
  · split <;> decide

/-- A pixel fits a byte. -/
theorem pixelAt_toNat {bpp : Nat} (h : bpp ≤ 8) (m : List Host.Cell) (p : Nat) :
    (pixelAt bpp m p).toNat = memRead m p bpp :=
  Nat.mod_eq_of_lt ((memRead_lt m bpp p).trans_le (Nat.pow_le_pow_right (by decide) h))

theorem pixEntry_decoded (hwf : Memory.wf unlistedByte s.pixram) (hk : k < streamPixels s.buf) :
    (pixEntry s.decoded.pixram k).toNat =
      memRead s.buf (streamP0 s.buf + k * bppOf (streamDepth s.buf)) (bppOf (streamDepth s.buf)) := by
  have hpix : (streamVars s.buf).pix[k]? = some (pixelAt (bppOf (streamDepth s.buf)) s.buf
      (streamP0 s.buf + k * bppOf (streamDepth s.buf))) := by
    rw [streamVars_pix, fieldsAt_getElem?_of_lt _ _ _ _ hk]
  obtain ⟨hlen, hget⟩ := List.getElem?_eq_some_iff.1 hpix
  have hentry : pixEntry s.decoded.pixram k = (streamVars s.buf).pix[k] := pixEntry_writeAll hwf hlen
  rw [hentry, hget, pixelAt_toNat (bppOf_le _)]

theorem pixEntry_decoded_of_ge (hwf : Memory.wf unlistedByte s.pixram) (hk : streamPixels s.buf ≤ k) :
    pixEntry s.decoded.pixram k = pixEntry s.pixram k := by
  have hlen : (streamVars s.buf).pix.length ≤ k := by rwa [streamVars_pix, fieldsAt_length]
  simp [State.decoded, pixEntry, Memory.read_writeAll _ hwf, List.getElem?_eq_none hlen]

/-- Settles O40: each register and memory of the closed form, against the stream's offsets. -/
theorem decodeBuildsTheStreamsImage : Obligations.DecodeBuildsTheStreamsImage := by
  intro s hpal hpix haccepts
  have ⟨_, _, hd, hl, _⟩ := haccepts
  exact ⟨_, exec_decode_of_accepts haccepts, depthNamed_code (streamDepth_le hd), bne_zero_toNat (streamPalette_lt _),
    layoutNamed_code (streamLayout_le hl), accuracyNamed_code (streamAccuracy_lt _), streamHeader_width _,
    streamHeader_height _, fun _ => palEntry_decoded hpal, fun _ => palEntry_decoded_of_ge hpal,
    fun _ => pixEntry_decoded hpix, fun _ => pixEntry_decoded_of_ge hpix, rfl⟩

/-! Reads that come to the end of the buffer (R131, R204). -/

/-- Where the buffer ends inside the `w` bits that `g` reads in chunks of `c`, `g` raises INSUFFICIENT_BITS at the first chunk
that does not fit. -/
def RaisesAtChunk (c w : Nat) (g : State → Run α) : Prop :=
  ∀ s : State, s.pos ≤ 8 * s.bufLen → 8 * s.bufLen < s.pos + w →
    g s = .raised (.decode .insufficientBits) (s.advance (s.bitsLeft / c * c))

theorem readBits_raisesAtChunk (hn : 1 ≤ n) : RaisesAtChunk n n (readBits n) := by
  intro s _ hshort
  have hnone : s.bitsLeft / n = 0 := Nat.div_eq_of_lt (by simp only [State.bitsLeft]; omega)
  rw [readBits_of_short hn hshort, hnone, Nat.zero_mul]
  rfl

theorem RaisesAtChunk.andThen {c w : Nat} {g : State → Run α} (hg : RaisesAtChunk c w g) (f : α → State → Run β) :
    RaisesAtChunk c w fun s => (g s).andThen f :=
  fun s hpos hshort => congrArg (Run.andThen · f) (hg s hpos hshort)

/-- A reader that repeats `g`, whose width is a number of chunks, reads in the same chunks. -/
theorem RaisesAtChunk.list {c w : Nat} {val : List Host.Cell → Nat → α} {g : State → Run α} (hg : RaisesAtChunk c w g)
    (hreads : ReadsField w val g) (hw : c ∣ w) {f : Nat → State → Run (List α)}
    (hsucc : ∀ n s, f (n + 1) s = (g s).andThen fun a t => (f n t).andThen fun as u => .done (a :: as) u) (n : Nat) :
    RaisesAtChunk c (n * w) (f n) := by
  induction n with
  | zero => intro s hpos hshort; omega
  | succ n ih =>
    intro s hpos hshort
    rw [Nat.succ_mul n] at hshort
    rw [hsucc]
    rcases Nat.lt_or_ge (8 * s.bufLen) (s.pos + w) with hfirst | hroom
    · exact hg.andThen _ s hpos hfirst
    · have hrest := ih (s.advance w) hroom (by simp only [State.advance_pos, State.advance_bufLen]; omega)
      have hchunks : w + (s.advance w).bitsLeft / c * c = s.bitsLeft / c * c := by
        have hleft : (s.advance w).bitsLeft = s.bitsLeft - w := Nat.sub_add_eq _ _ _
        have hle : w ≤ s.bitsLeft := by simp only [State.bitsLeft]; omega
        have hrem : (s.bitsLeft - w) % c = s.bitsLeft % c := by
          obtain ⟨j, rfl⟩ := hw
          exact Nat.sub_mul_mod hle
        have hsplit := Nat.div_add_mod' s.bitsLeft c
        have hsplit' := Nat.div_add_mod' (s.bitsLeft - w) c
        rw [hleft]
        omega
      rw [hreads.reads s hroom, Run.done_andThen, hrest, Run.raised_andThen, State.advance_advance, hchunks]

theorem readChannel_raisesAtChunk (acc : ChannelAccuracy) :
    RaisesAtChunk (bitsPerChannelFor acc) (bitsPerChannelFor acc) (readChannel acc) :=
  (readBits_raisesAtChunk (bitsPerChannelFor_pos acc)).andThen _

theorem readEntry_raisesAtChunk (l : ChannelLayout) (acc : ChannelAccuracy) :
    RaisesAtChunk (bitsPerChannelFor acc) (entryBits l acc) (readEntry l acc) :=
  ((readChannel_raisesAtChunk acc).list (readChannel_readsField acc) (Nat.dvd_refl _) (fun _ _ => rfl) _).andThen _

theorem readEntries_raisesAtChunk (l : ChannelLayout) (acc : ChannelAccuracy) (n : Nat) :
    RaisesAtChunk (bitsPerChannelFor acc) (n * entryBits l acc) (readEntries l acc n) :=
  (readEntry_raisesAtChunk l acc).list (readEntry_readsField l acc) (Nat.dvd_mul_left _ _) (fun _ _ => rfl) n

/-! DECODE's steps, each where it raises. -/

section
variable {ph : Phase} {p : Nat} {v : StepVars}

theorem State.inDecode_short {n : Nat} (h : 8 * s.bufLen < p + n) (hn : 1 ≤ n) : (s.inDecode ph p v).bitsLeft < n := by
  simp only [bitsLeft, inDecode_bufLen, inDecode_pos]
  omega

theorem decodeSig_of_short (h : s.bufLen < 7) :
    decodeSig (s.inDecode ph 0 v) = .raised (.decode .insufficientBits) (s.inDecode .dSig 0 v) := by
  have hleft : (s.inDecode .dSig 0 v).bitsLeft < 56 := State.inDecode_short (by omega) (by decide)
  exact if_pos hleft

theorem decodeSig_of_wrong (hlen : 7 ≤ s.bufLen) (hsig : ¬ HasSignature s.buf) :
    decodeSig (s.inDecode ph 0 v) = .raised (.decode .invalidSignature) (s.inDecode .dSig 56 v) := by
  have hread := readBytes_aligned 7 (s := s.inDecode .dSig 0 v) (j := 0) rfl (by simpa using hlen)
  have hbytes : (List.range' 0 7).map (bufByte s.buf) ≠ sigBytes := by rw [← List.range_eq_range']; exact hsig
  simp [decodeSig, State.inDecode_room (show 0 + 56 ≤ 8 * s.bufLen by omega), hread, hbytes]

theorem decodeMode_of_missing (h : s.bufLen = 7) :
    decodeMode (s.inDecode ph 56 v) = .raised (.decode .missingModeByte) (s.inDecode .dMode 56 v) := by
  have hleft : (s.inDecode .dMode 56 v).bitsLeft < 8 := State.inDecode_short (by omega) (by decide)
  exact if_pos hleft

theorem decodeMode_of_reserved (hlen : 8 ≤ s.bufLen) (h : streamDepth s.buf = 3 ∨ streamLayout s.buf = 3) :
    ∃ v', decodeMode (s.inDecode ph 56 v) = .raised (.decode .invalidMode) (s.inDecode .dMode 64 v') :=
  decodeMode_of_room (ph := ph) (v := v) hlen ▸ takeModeByte_of_reserved h

theorem decodeDim_of_noWidth (h : 8 * s.bufLen < 76) :
    decodeDim (s.inDecode ph 64 v) = .raised (.decode .insufficientBits) (s.inDecode .dDim 64 v) := by
  have hw := readBits_of_short (n := 12) (s := s.inDecode .dDim 64 v) (by decide) h
  simp only [decodeDim, State.inDecode_goto, hw, Run.raised_andThen]

theorem decodeDim_of_noHeight (hw : 76 ≤ 8 * s.bufLen) (h : 8 * s.bufLen < 88) :
    decodeDim (s.inDecode ph 64 v) = .raised (.decode .insufficientBits) (s.inDecode .dDim 76 v) := by
  have hw := readBits_of_room (n := 12) (s := s.inDecode .dDim 64 v) hw
  have hh := readBits_of_short (n := 12) (s := s.inDecode .dDim 76 v) (by decide) h
  simp only [decodeDim, State.inDecode_goto, hw, Run.done_andThen, State.inDecode_advance, hh, Run.raised_andThen]

theorem decodePal_of_short (hpos : p ≤ 8 * s.bufLen) (h : 8 * s.bufLen < p + v.palBits) :
    decodePal (s.inDecode ph p v) = .raised (.decode .insufficientBits)
      (s.inDecode .dPal (p + (8 * s.bufLen - p) / bitsPerChannelFor v.acc * bitsPerChannelFor v.acc) v) := by
  by_cases hp : v.p = true
  · rw [StepVars.palBits, if_pos hp] at h
    have hread := readEntries_raisesAtChunk v.l v.acc (colorCountFor v.d) (s.inDecode .dPal p v) hpos h
    simp only [decodePal, State.inDecode_goto, State.inDecode_tmp, if_pos hp, hread, Run.raised_andThen]
    rfl
  · rw [StepVars.palBits, if_neg hp] at h
    omega

theorem decodePix_of_short (hpos : p ≤ 8 * s.bufLen) (h : 8 * s.bufLen < p + v.pixBits) :
    decodePix (s.inDecode ph p v) = .raised (.decode .pixelBits) (s.inDecode .dPix p v) :=
  if_pos (State.inDecode_short h (by omega))

/-- The first three steps on a stream with a signature, a named mode and its dimensions. -/
theorem decodeSteps_of_header (hlen : 11 ≤ s.bufLen) (hsig : HasSignature s.buf) (hd : streamDepth s.buf ≠ 3)
    (hl : streamLayout s.buf ≠ 3) :
    decodeSteps (s.inDecode ph 0 StepVars.empty) =
      (decodePal (s.inDecode .dDim 88 (streamHeader s.buf))).andThen fun _ s =>
      (decodePix s).andThen fun _ s => decodeDone s := by
  rw [decodeSteps, decodeSig_of_signature (by omega) hsig, Run.done_andThen,
    decodeMode_of_named (by omega) hd hl, Run.done_andThen, decodeDim_of_room hlen, Run.done_andThen]
  rfl

end

/-- The state DECODE's steps start from, but for the registers of `State.inDecode` (R200). -/
def State.decodeStart (s : State) : State := { s.begin with imgValid := false }

/-- DECODE's six steps from `s` end with exception `c` at position `q`, and nothing but the hidden registers written. -/
def StepsRaise (c : DecodeCause) (q : Nat) (s : State) : Prop :=
  ∀ ph, ∃ ph' v, decodeSteps (s.inDecode ph 0 StepVars.empty) = .raised (.decode c) (s.inDecode ph' q v)

/-- What a DECODE whose steps raise leaves (R210). -/
theorem StepsRaise.raisedInDecode {c : DecodeCause} {q : Nat}
    (h : StepsRaise c q s.decodeStart) :
    ∃ t, exec .decode s = .next t ∧ RaisedInDecode (Exc.decode c).errCode q s t := by
  obtain ⟨ph, v, hsteps⟩ := h s.seq
  exact ⟨_, congrArg Run.finish hsteps, rfl⟩

section
variable (hsig : HasSignature s.buf) (hd : streamDepth s.buf ≠ 3) (hl : streamLayout s.buf ≠ 3)

theorem stepsRaise_of_shortSignature (h : s.bufLen < 7) : StepsRaise .insufficientBits 0 s :=
  fun _ => ⟨_, _, by rw [decodeSteps, decodeSig_of_short h, Run.raised_andThen]⟩

theorem stepsRaise_of_wrongSignature (hlen : 7 ≤ s.bufLen) (h : ¬ HasSignature s.buf) :
    StepsRaise .invalidSignature 56 s :=
  fun _ => ⟨_, _, by rw [decodeSteps, decodeSig_of_wrong hlen h, Run.raised_andThen]⟩

include hsig

theorem stepsRaise_of_missingMode (h : s.bufLen = 7) : StepsRaise .missingModeByte 56 s :=
  fun _ => ⟨_, _, by
    rw [decodeSteps, decodeSig_of_signature h.ge hsig, Run.done_andThen, decodeMode_of_missing h, Run.raised_andThen]⟩

theorem stepsRaise_of_reservedMode (hlen : 8 ≤ s.bufLen) (h : streamDepth s.buf = 3 ∨ streamLayout s.buf = 3) :
    StepsRaise .invalidMode 64 s := by
  intro ph
  obtain ⟨v, hmode⟩ := decodeMode_of_reserved (ph := .dSig) (v := StepVars.empty) hlen h
  exact ⟨_, v, by
    rw [decodeSteps, decodeSig_of_signature (by omega) hsig, Run.done_andThen, hmode, Run.raised_andThen]⟩

include hd hl

theorem stepsRaise_of_noWidth (hlen : 8 ≤ s.bufLen) (h : 8 * s.bufLen < 76) : StepsRaise .insufficientBits 64 s :=
  fun _ => ⟨_, _, by
    rw [decodeSteps, decodeSig_of_signature (by omega) hsig, Run.done_andThen, decodeMode_of_named hlen hd hl,
      Run.done_andThen, decodeDim_of_noWidth h, Run.raised_andThen]⟩

theorem stepsRaise_of_noHeight (hw : 76 ≤ 8 * s.bufLen) (h : 8 * s.bufLen < 88) :
    StepsRaise .insufficientBits 76 s :=
  fun _ => ⟨_, _, by
    rw [decodeSteps, decodeSig_of_signature (by omega) hsig, Run.done_andThen, decodeMode_of_named (by omega) hd hl,
      Run.done_andThen, decodeDim_of_noHeight hw h, Run.raised_andThen]⟩

theorem stepsRaise_of_shortPalette (hlen : 11 ≤ s.bufLen) (h : 8 * s.bufLen < 88 + streamPaletteBits s.buf) :
    StepsRaise .insufficientBits
      (88 + (8 * s.bufLen - 88) / bpcOf (streamAccuracy s.buf) * bpcOf (streamAccuracy s.buf)) s := by
  intro ph
  rw [← streamHeader_palBits] at h
  rw [bpcOf_eq, decodeSteps_of_header hlen hsig hd hl, decodePal_of_short (by omega) h, Run.raised_andThen]
  exact ⟨_, _, rfl⟩

theorem stepsRaise_of_shortPixels (h0 : streamP0 s.buf ≤ 8 * s.bufLen) (h : 8 * s.bufLen < streamEnd s.buf) :
    StepsRaise .pixelBits (streamP0 s.buf) s := by
  intro ph
  have hP0 := palette_le_streamP0 s.buf
  have hpal : decodePal (s.inDecode .dDim 88 (streamHeader s.buf)) =
      .done () (s.inDecode .dPal (streamP0 s.buf) (streamPaletteVars s.buf)) := by
    rw [streamP0_eq, ← streamHeader_palBits]
    exact decodePal_of_room rfl (by rw [streamHeader_palBits]; omega)
  rw [streamEnd, ← streamPaletteVars_pixBits] at h
  rw [decodeSteps_of_header (by omega) hsig hd hl, hpal, Run.done_andThen, decodePix_of_short h0 h, Run.raised_andThen]
  exact ⟨_, _, rfl⟩

end

/-! The statements about DECODE. -/

/-- Settles O42: the length is tested before the content. -/
theorem decodeRejectsTheSignature : Obligations.DecodeRejectsTheSignature := fun s =>
  ⟨fun h => (stepsRaise_of_shortSignature (s := s.decodeStart) h).raisedInDecode,
    fun hlen h => (stepsRaise_of_wrongSignature (s := s.decodeStart) hlen h).raisedInDecode⟩

/-- Settles O43: step 2 raises before step 3 looks at the buffer. -/
theorem decodeRejectsTheModeByte : Obligations.DecodeRejectsTheModeByte := fun s hsig =>
  ⟨fun h => (stepsRaise_of_missingMode (s := s.decodeStart) hsig h).raisedInDecode,
    fun hlen h => (stepsRaise_of_reservedMode (s := s.decodeStart) hsig hlen h).raisedInDecode⟩

/-- Settles O44: the read of the width is short, or else that of the height. -/
theorem decodeRejectsShortDimensions : Obligations.DecodeRejectsShortDimensions := by
  refine fun s hsig hd hl => ⟨fun h => ?_, fun h => ?_⟩
  · obtain ⟨hroom, hshort⟩ : 8 ≤ s.bufLen ∧ 8 * s.bufLen < 76 := by omega
    exact (stepsRaise_of_noWidth (s := s.decodeStart) hsig hd hl hroom hshort).raisedInDecode
  · obtain ⟨hroom, hshort⟩ : 76 ≤ 8 * s.bufLen ∧ 8 * s.bufLen < 88 := by omega
    exact (stepsRaise_of_noHeight (s := s.decodeStart) hsig hd hl hroom hshort).raisedInDecode

/-- Settles O45: the palette is read channel by channel. -/
theorem decodeRejectsAShortPalette : Obligations.DecodeRejectsAShortPalette := fun s hsig hd hl hlen h =>
  (stepsRaise_of_shortPalette (s := s.decodeStart) hsig hd hl hlen h).raisedInDecode

/-- Settles O46: the whole plane is tested before it is read. -/
theorem decodeRejectsAShortPixelPlane : Obligations.DecodeRejectsAShortPixelPlane := fun s hsig hd hl h0 h =>
  (stepsRaise_of_shortPixels (s := s.decodeStart) hsig hd hl h0 h).raisedInDecode

/-- The steps of DECODE raise on every stream it does not accept, each at the section the stream fails in. -/
theorem stepsRaise_of_not_accepts (h : ¬ DecodeAccepts s.buf s.bufLen) : ∃ c q, StepsRaise c q s := by
  by_cases h7 : s.bufLen < 7
  · exact ⟨_, _, stepsRaise_of_shortSignature h7⟩
  by_cases hsig : HasSignature s.buf
  case neg => exact ⟨_, _, stepsRaise_of_wrongSignature (by omega) hsig⟩
  by_cases h8 : s.bufLen = 7
  · exact ⟨_, _, stepsRaise_of_missingMode hsig h8⟩
  by_cases hmode : streamDepth s.buf = 3 ∨ streamLayout s.buf = 3
  · exact ⟨_, _, stepsRaise_of_reservedMode hsig (by omega) hmode⟩
  obtain ⟨hd, hl⟩ := not_or.1 hmode
  by_cases hw : 8 * s.bufLen < 76
  · exact ⟨_, _, stepsRaise_of_noWidth hsig hd hl (by omega) hw⟩
  by_cases hh : 8 * s.bufLen < 88
  · exact ⟨_, _, stepsRaise_of_noHeight hsig hd hl (by omega) hh⟩
  by_cases hpal : 8 * s.bufLen < 88 + streamPaletteBits s.buf
  · exact ⟨_, _, stepsRaise_of_shortPalette hsig hd hl (by omega) hpal⟩
  have h0 : streamP0 s.buf ≤ 8 * s.bufLen := by
    rw [streamP0_eq, ceil8]
    omega
  have hend : 8 * s.bufLen < streamEnd s.buf :=
    Nat.lt_of_not_le fun hend => h ⟨by omega, hsig, hd, hl, hend⟩
  exact ⟨_, _, stepsRaise_of_shortPixels hsig hd hl h0 hend⟩

/-- Everything a DECODE can do: it accepts the stream, or raises a DecodeError. -/
theorem exec_decode_cases {t : State} (h : exec .decode s = .next t) :
    (DecodeAccepts s.buf s.bufLen ∧ t = s.decoded) ∨
    (¬ DecodeAccepts s.buf s.bufLen ∧ ∃ c q, RaisedInDecode (Exc.decode c).errCode q s t) := by
  by_cases hacc : DecodeAccepts s.buf s.bufLen
  · rw [exec_decode_of_accepts hacc] at h
    cases h
    exact .inl ⟨hacc, rfl⟩
  · obtain ⟨c, q, hraise⟩ := stepsRaise_of_not_accepts (s := s.decodeStart) hacc
    obtain ⟨u, hu, hraised⟩ := hraise.raisedInDecode
    rw [hu] at h
    cases h
    exact .inr ⟨hacc, c, q, hraised⟩

theorem RaisedInDecode.err_eq {e : BitVec 4} {q : Nat} {s t : State} (h : RaisedInDecode e q s t) : t.err = e :=
  congrArg State.err h

theorem RaisedInDecode.pos_eq {e : BitVec 4} {q : Nat} {s t : State} (h : RaisedInDecode e q s t) : t.pos = q :=
  congrArg State.pos h

theorem decodeCause_errCode_le (c : DecodeCause) : (Exc.decode c).errCode.toNat ≤ 5 := by cases c <;> decide

/-- Settles O41: an accepted stream leaves ERR 0, and a DecodeError's code is not 0. -/
theorem decodeSucceedsExactlyOnWholeStreams : Obligations.DecodeSucceedsExactlyOnWholeStreams := by
  intro s t h
  rcases exec_decode_cases h with ⟨hacc, rfl⟩ | ⟨hacc, c, q, hraised⟩
  · exact iff_of_true rfl hacc
  · exact iff_of_false (hraised.err_eq ▸ Exc.errCode_ne_zero _) hacc

/-- Settles O47: a DECODE that did not accept its stream raised one of the five DecodeErrors. -/
theorem failedDecodeLeavesNoImage : Obligations.FailedDecodeLeavesNoImage := by
  intro s t h herr
  rcases exec_decode_cases h with ⟨-, rfl⟩ | ⟨-, c, q, hraised⟩
  · exact absurd rfl herr
  · rw [hraised.err_eq, hraised.pos_eq]
    exact ⟨decodeCause_errCode_le c, hraised⟩

/-! COLORAT (R208). -/

/-- The palette index of the pixel COLORAT is asked for. -/
def State.pixelAsked (s : State) : Nat :=
  (pixEntry s.pixram (s.arg[1].toNat * s.width.toNat + s.arg[0].toNat)).toNat

theorem exec_colorat_of_inside (himg : s.imgValid = true) (hx : s.arg[0].toNat < s.width.toNat)
    (hy : s.arg[1].toNat < s.height.toNat) :
    exec .colorat s = .next (s.afterColor (currentColor s s.pixelAsked)) := by
  have hin : ¬ (s.width.toNat ≤ s.arg[0].toNat ∨ s.height.toNat ≤ s.arg[1].toNat) := by omega
  exact (finish_needImage_of_image _ himg).trans (congrArg Run.finish (if_neg hin))

theorem exec_colorat_of_outside (himg : s.imgValid = true)
    (hout : s.width.toNat ≤ s.arg[0].toNat ∨ s.height.toNat ≤ s.arg[1].toNat) :
    exec .colorat s = .next (s.begin.raise (.assert .coordRange)) :=
  (finish_needImage_of_image _ himg).trans (congrArg Run.finish (if_pos hout))

/-- Settles O49: the checks of the image and of the coordinates, and the two cases of the palette's lookup. -/
theorem coloratResolvesThePixel : Obligations.ColoratResolvesThePixel := by
  refine fun s => ⟨fun himg hx hy => ⟨_, exec_colorat_of_inside himg hx hy, State.afterColor_answered _ s,
    fun hlt => ?_, fun hge => ?_⟩, fun himg hout => ?_, finish_needImage_of_noImage _⟩
  · rw [State.pixelAsked, currentColor_of_lt hlt]
    exact State.afterColor_holds _ s
  · rw [State.pixelAsked, currentColor_of_ge hge]
    rfl
  · exact ⟨_, exec_colorat_of_outside himg hout, raisedOnly_raise (by simp)⟩

end Sys2Proof.Machine
end

section
/-! PROOFS. The sizes of an image, BYTECOUNT, and the checks of ENCODE (44_imagecodec_encode.md R230 to R234). -/

namespace Sys2Proof.Machine

variable {s : State}

/-! The sizes by the numeric values of the mode registers (R231). -/

@[simp] theorem depthNamed_of_code (d : PixelDepth) : depthNamed d.code = d := by cases d <;> rfl
@[simp] theorem layoutNamed_of_code (l : ChannelLayout) : layoutNamed l.code = l := by cases l <;> rfl
@[simp] theorem accuracyNamed_of_code (a : ChannelAccuracy) : accuracyNamed a.code = a := by cases a <;> rfl

@[simp] theorem bppOf_code (d : PixelDepth) : bppOf d.code = bitsPerPixelFor d := by rw [bppOf_eq, depthNamed_of_code]
@[simp] theorem ccOf_code (d : PixelDepth) : ccOf d.code = colorCountFor d := by rw [ccOf_eq, depthNamed_of_code]
@[simp] theorem chOf_code (l : ChannelLayout) : chOf l.code = channelCountFor l := by rw [chOf_eq, layoutNamed_of_code]
@[simp] theorem bpcOf_code (a : ChannelAccuracy) : bpcOf a.code = bitsPerChannelFor a := by
  rw [bpcOf_eq, accuracyNamed_of_code]

/-! The bounds of the sizes (R232). -/

theorem channelCountFor_le (l : ChannelLayout) : channelCountFor l ≤ 4 := by cases l <;> decide
theorem bitsPerChannelFor_le_eight (acc : ChannelAccuracy) : bitsPerChannelFor acc ≤ 8 := by cases acc <;> decide
theorem bitsPerPixelFor_pos (d : PixelDepth) : 1 ≤ bitsPerPixelFor d := by cases d <;> decide
theorem bitsPerPixelFor_le_eight (d : PixelDepth) : bitsPerPixelFor d ≤ 8 := by cases d <;> decide

theorem paletteBits_le (s : State) : s.paletteBits ≤ 8192 := by
  rw [State.paletteBits]
  split
  · exact Nat.mul_le_mul (Nat.mul_le_mul (colorCountFor_le _) (channelCountFor_le _)) (bitsPerChannelFor_le_eight _)
  · exact Nat.zero_le _

theorem pixelBits_le (s : State) : s.pixelBits ≤ 134152200 :=
  Nat.mul_le_mul (bitsPerPixelFor_le_eight _) (dimensions_le_pixMax s.width s.height)

theorem le_byteCount (s : State) : 11 ≤ s.byteCount := by
  rw [State.byteCount]
  omega

theorem byteCount_le (s : State) : s.byteCount ≤ 16770060 := by
  have hpal := paletteBits_le s
  have hpix := pixelBits_le s
  rw [State.byteCount, ceil8, ceil8]
  omega

/-- The byte count fits a command-port register. -/
theorem byteCount_word (s : State) : (BitVec.ofNat 32 s.byteCount).toNat = s.byteCount :=
  Nat.mod_eq_of_lt ((byteCount_le s).trans_lt (by decide))

/-- A state whose image is the largest the registers can hold. -/
def State.largestImage : State :=
  { State.reset with depth := .eightBit, palEmb := true, layout := .rgba, acc := .eightBit, width := 4095, height := 4095 }

/-- Settles O51: the tables' largest values bound the sizes; reset has no pixels, and the largest image has all of them. -/
theorem sizesAreBounded : Obligations.SizesAreBounded :=
  ⟨fun s => ⟨paletteBits_le s, pixelBits_le s, le_byteCount s, byteCount_le s⟩,
    ⟨State.reset, rfl⟩, ⟨State.largestImage, rfl⟩⟩

/-! BYTECOUNT (R230). -/

theorem exec_bytecount_of_image (h : s.imgValid = true) :
    exec .bytecount s = .next (s.begin.setRes0 (BitVec.ofNat 32 s.byteCount)) :=
  finish_needImage_of_image _ h

/-- Settles O50: the tables are functions of the registers' numeric values. -/
theorem bytecountIsTheSizeFormula : Obligations.BytecountIsTheSizeFormula := by
  refine fun s => ⟨fun h => answers_of_exec_eq_setRes0 (exec_bytecount_of_image h) ?_, finish_needImage_of_noImage _⟩
  rw [byteCount_word, ccOf_code, chOf_code, bpcOf_code, bppOf_code]
  rfl

/-! The checks of ENCODE (R233, R234). -/

/-- With a flag and an image ENCODE comes to the check of the buffer. -/
theorem exec_encode_of_image (hflag : s.arg[0].toNat ≤ 1) (h : s.imgValid = true) :
    exec .encode s = (encodeSteps (flagOf s.arg[0]) s.begin).finish := by
  refine (finish_checkOperands_of_none _ (firstFault_cons_of_admits (flag_admits.2 hflag))).trans ?_
  exact finish_needImage_of_image (fun _ t => encodeSteps (flagOf t.arg[0]) t) h

theorem flagOf_of_one {v : Word} (h : v.toNat = 1) : flagOf v = true := by rw [flagOf, h]; rfl
theorem flagOf_of_zero {v : Word} (h : v.toNat = 0) : flagOf v = false := by rw [flagOf, h]; rfl

/-- A target shorter than the encoding. -/
theorem encodeBuffer_of_shortTarget (h : s.bufLen < s.byteCount) :
    encodeBuffer true s = .raised (.bufferTooSmall s.byteCount s.bufLen) (s.goto .eCheck) := if_pos h

/-- No target, and a capacity below the encoding. -/
theorem encodeBuffer_of_shortCapacity (h : s.bufMax < s.byteCount) :
    encodeBuffer false s = .raised (.bufferTooSmall s.byteCount s.bufMax) (s.goto .eCheck) := if_pos h

/-- Settles O52: the flag, the image and the buffer are tested in this order, and no update but of SEQ comes before them. -/
theorem encodeChecksBeforeItWrites : Obligations.EncodeChecksBeforeItWrites := by
  refine fun s => ⟨fun hflag => ?_, fun hflag himg => ?_, fun hone himg hshort => ?_, fun hzero himg hshort => ?_⟩
  · exact finish_checkOperands_of_some _ (firstFault_cons_of_not_admits (flag_rejects hflag))
  · obtain ⟨t, ht, hraised⟩ := finish_needImage_of_noImage (fun _ t => encodeSteps (flagOf t.arg[0]) t) himg
    refine ⟨t, ?_, hraised⟩
    exact (finish_checkOperands_of_none _ (firstFault_cons_of_admits (flag_admits.2 hflag))).trans ht
  · rw [exec_encode_of_image hone.le himg, flagOf_of_one hone, encodeSteps,
      encodeBuffer_of_shortTarget (s := s.begin) hshort]
    exact ⟨_, rfl, raisedTooSmall_raise s.byteCount s.bufLen s⟩
  · rw [exec_encode_of_image (by omega) himg, flagOf_of_zero hzero, encodeSteps,
      encodeBuffer_of_shortCapacity (s := s.begin) hshort]
    exact ⟨_, rfl, raisedTooSmall_raise s.byteCount s.bufMax s⟩

end Sys2Proof.Machine
end

section
/-! PROOFS. ENCODE once its checks have passed: each sub-step fills the bits from where POS is up to where it leaves POS and no
other, and the sections of the stream follow one another (44_imagecodec_encode.md R235 to R239). -/

namespace Sys2Proof.Machine

variable {s : State} {p q r : Nat} {P Q : List Host.Cell → Prop} {g h : State → Run Unit}

/-! Sub-steps that fill bits. -/

/-- `s` inside an ENCODE: in phase `ph`, with `m` in BUF, at position `p`. -/
def State.inEncode (ph : Phase) (m : List Host.Cell) (p : Nat) (s : State) : State := { s with seq := ph, buf := m, pos := p }

/-- Inside an ENCODE of the image of `s`, `g` goes from position `p` to `q` and writes the bits between and no others; and these
bits alone make `P` hold of BUF, whatever is written elsewhere later. -/
structure Fills (s : State) (p q : Nat) (P : List Host.Cell → Prop) (g : State → Run Unit) : Prop where
  le : p ≤ q
  fills : ∀ ph m, Memory.wf unlistedByte m → ∃ ph' m', g (s.inEncode ph m p) = .done () (s.inEncode ph' m' q) ∧
    Memory.wf unlistedByte m' ∧ (∀ b, b < p ∨ q ≤ b → bufBit m' b = bufBit m b) ∧
    ∀ m'', (∀ b, p ≤ b → b < q → bufBit m'' b = bufBit m' b) → P m''

theorem Fills.mono (hg : Fills s p q P g) (hPQ : ∀ m, P m → Q m) : Fills s p q Q g := by
  refine ⟨hg.le, fun ph m hwf => ?_⟩
  obtain ⟨ph', m', hrun, hwf', hkeep, hP⟩ := hg.fills ph m hwf
  exact ⟨ph', m', hrun, hwf', hkeep, fun m'' hm'' => hPQ m'' (hP m'' hm'')⟩

/-- A sub-step that does what `h` does from some phase. -/
theorem Fills.congr (hh : Fills s p q P h) (hgh : ∀ ph m, ∃ ph', g (s.inEncode ph m p) = h (s.inEncode ph' m p)) :
    Fills s p q P g := by
  refine ⟨hh.le, fun ph m hwf => ?_⟩
  obtain ⟨ph', hrun⟩ := hgh ph m
  exact hrun ▸ hh.fills ph' m hwf

/-- A sub-step with nothing to write. -/
theorem Fills.done (hP : ∀ m, P m) : Fills s p p P fun t => .done () t :=
  ⟨le_rfl, fun ph m hwf => ⟨ph, m, rfl, hwf, fun _ _ => rfl, fun m'' _ => hP m''⟩⟩

/-- A second sub-step goes on where the first ended, and leaves what the first wrote. -/
theorem Fills.seq (hg : Fills s p q P g) (hh : Fills s q r Q h) :
    Fills s p r (fun m => P m ∧ Q m) fun t => (g t).andThen fun _ => h := by
  have hpq := hg.le
  have hqr := hh.le
  refine ⟨hpq.trans hqr, fun ph m hwf => ?_⟩
  obtain ⟨ph₁, m₁, hrun₁, hwf₁, hkeep₁, hP⟩ := hg.fills ph m hwf
  obtain ⟨ph₂, m₂, hrun₂, hwf₂, hkeep₂, hQ⟩ := hh.fills ph₁ m₁ hwf₁
  refine ⟨ph₂, m₂, by rw [hrun₁, Run.done_andThen, hrun₂], hwf₂, fun b hb => ?_,
    fun m'' hm'' => ⟨hP m'' fun b hb hbq => ?_, hQ m'' fun b hb hbr => hm'' b (by omega) hbr⟩⟩
  · rw [hkeep₂ b (by omega), hkeep₁ b (by omega)]
  · rw [hm'' b hb (by omega), hkeep₂ b (.inl hbq)]

/-- A field written where there is room for it. -/
theorem writeBits_fills {v n : Nat} (h1 : 1 ≤ n) (h32 : n ≤ 32) (hv : v < 2 ^ n) (hroom : p + n ≤ 8 * s.bufLen) :
    Fills s p (p + n) (fun m => memRead m p n = v) (writeBits v n) := by
  refine ⟨Nat.le_add_right p n, fun ph m hwf => ⟨ph, memWrite m p v n, writeBits_of_room h1 h32 hv hroom,
    wf_memWrite v n hwf, fun b hb => ?_, fun m'' hm'' => ?_⟩⟩
  · rw [bufBit_memWrite v n hwf, if_neg (by omega)]
  · rw [memRead_congr hm'', memRead_memWrite hwf, Nat.mod_eq_of_lt hv]

/-- The bits of a padding are zero. -/
def ZeroBits (p q : Nat) (m : List Host.Cell) : Prop := ∀ b, p ≤ b → b < q → bufBit m b = false

theorem zeroBits_of_memRead {n : Nat} {m : List Host.Cell} (h0 : memRead m p n = 0) : ZeroBits p (p + n) m := by
  intro b hb hbn
  have hbit := testBit_memRead m n p (n - 1 - (b - p))
  have hpos : p + (n - 1 - (n - 1 - (b - p))) = b := by omega
  rw [h0, Nat.zero_testBit, hpos, decide_eq_true (by omega), Bool.true_and] at hbit
  exact hbit.symm

/-- The padding goes up to the next byte (R236, R237). -/
theorem writePad_fills (hroom : p ≤ 8 * s.bufLen) : Fills s p (8 * ceil8 p) (ZeroBits p (8 * ceil8 p)) writePad := by
  rcases Nat.eq_zero_or_pos (8 * ceil8 p - p) with hnone | hsome
  · have hstay : 8 * ceil8 p = p := by rw [ceil8] at hnone ⊢; omega
    have hskip : ¬ 0 < 8 * ceil8 p - p := by omega
    rw [hstay]
    have hdone : Fills s p p (ZeroBits p p) fun t => .done () t := .done fun m b hb hbp => by omega
    exact hdone.congr fun ph m => ⟨ph, if_neg hskip⟩
  · have hend : p + (8 * ceil8 p - p) = 8 * ceil8 p := by omega
    have hle : 8 * ceil8 p - p ≤ 7 := by rw [ceil8]; omega
    have hfits : p + (8 * ceil8 p - p) ≤ 8 * s.bufLen := by rw [ceil8]; omega
    have hzeros := writeBits_fills hsome (by omega) (Nat.two_pow_pos _) hfits
    rw [hend] at hzeros
    refine (hzeros.mono fun m hm => ?_).congr fun ph m => ⟨ph, if_pos hsome⟩
    exact hend ▸ zeroBits_of_memRead hm

/-- A sub-step that repeats `f` for `n` entries from entry `k` on, each `w` bits wide. -/
theorem Fills.list {w : Nat} {P : Nat → Nat → List Host.Cell → Prop} {f : Nat → State → Run Unit}
    {fs : Nat → Nat → State → Run Unit} (hzero : ∀ k t, fs k 0 t = .done () t)
    (hsucc : ∀ k n t, fs k (n + 1) t = (f k t).andThen fun _ => fs (k + 1) n) (n : Nat) :
    ∀ {k p}, (∀ j p, k ≤ j → j < k + n → p + w ≤ 8 * s.bufLen → Fills s p (p + w) (P j p) (f j)) →
      p + n * w ≤ 8 * s.bufLen → Fills s p (p + n * w) (fun m => ∀ i, i < n → P (k + i) (p + i * w) m) (fs k n) := by
  induction n with
  | zero =>
    intro k p _ _
    rw [Nat.zero_mul, Nat.add_zero, funext (hzero k)]
    exact .done fun m i hi => absurd hi i.not_lt_zero
  | succ n ih =>
    intro k p hf hroom
    have hstep : ∀ i, p + (i + 1) * w = p + w + i * w := fun i => by rw [Nat.succ_mul]; omega
    rw [hstep] at hroom ⊢
    have hfirst := hf k p le_rfl (by omega) (by omega)
    have hrest := ih (k := k + 1) (fun j p hj hjn => hf j p (by omega) (by omega)) hroom
    rw [funext (hsucc k n)]
    refine Fills.mono (hfirst.seq hrest) ?_
    rintro m ⟨hm, hms⟩ i hi
    cases i with
    | zero => simpa using hm
    | succ i =>
      have hentry : k + (i + 1) = k + 1 + i := by omega
      rw [hstep, hentry]
      exact hms i (by omega)

/-! The sections of the stream, each where there is room for it. -/

/-- Channels written one after the other are consecutive fields. -/
theorem writeChannels_fills (acc : ChannelAccuracy) (cs : List Byte) :
    ∀ {p}, p + cs.length * bitsPerChannelFor acc ≤ 8 * s.bufLen →
      Fills s p (p + cs.length * bitsPerChannelFor acc)
        (fun m => fieldsAt (fun m p => memRead m p (bitsPerChannelFor acc)) (bitsPerChannelFor acc) cs.length m p =
          cs.map (storedValue acc)) (writeChannels acc cs) := by
  induction cs with
  | nil =>
    intro p _
    rw [List.length_nil, Nat.zero_mul]
    exact .done fun m => rfl
  | cons c cs ih =>
    intro p hroom
    have hlen : p + (c :: cs).length * bitsPerChannelFor acc =
        p + bitsPerChannelFor acc + cs.length * bitsPerChannelFor acc := by
      rw [List.length_cons, Nat.succ_mul]
      omega
    rw [hlen] at hroom ⊢
    have hfirst := writeBits_fills (s := s) (p := p) (bitsPerChannelFor_pos acc) (bitsPerChannelFor_le acc)
      (storedValue_lt acc c) (by omega)
    refine Fills.mono (hfirst.seq (ih hroom)) ?_
    rintro m ⟨hm, hms⟩
    rw [List.length_cons, fieldsAt_succ, hm, hms, List.map_cons]

/-- Bytes are written as channels of eight bits are. -/
theorem writeBytes_eq_writeChannels (bs : List Byte) : writeBytes bs = writeChannels .eightBit bs := by
  induction bs with
  | nil => rfl
  | cons b bs ih =>
    funext t
    rw [writeBytes, writeChannels, ih]
    rfl

theorem hasSignature_of_fieldsAt {m : List Host.Cell}
    (h : fieldsAt (fun m p => memRead m p 8) 8 7 m 0 = sigBytes.map (storedValue .eightBit)) : HasSignature m := by
  have hbytes : (List.range 7).map (fun j => memRead m (0 + j * 8) 8) = ((List.range 7).map (bufByte m)).map BitVec.toNat := by
    rw [List.map_map]
    refine List.map_congr_left fun j _ => ?_
    rw [Nat.zero_add, Nat.mul_comm, memRead_byte]
    rfl
  exact List.map_injective_iff.2 (fun _ _ => BitVec.eq_of_toNat_eq) (hbytes.symm.trans h)

/-- The signature (R235). -/
theorem encodeSig_fills (hroom : 7 ≤ s.bufLen) : Fills s 0 56 HasSignature encodeSig := by
  have hbytes : Fills s 0 56 _ (writeChannels .eightBit sigBytes) :=
    writeChannels_fills (s := s) (p := 0) .eightBit sigBytes (by simp only [sigBytes, bitsPerChannelFor, List.length]; omega)
  rw [← writeBytes_eq_writeChannels] at hbytes
  exact (hbytes.mono fun _ => hasSignature_of_fieldsAt).congr fun _ m => ⟨.eSig, rfl⟩

/-- The fields of the mode byte do not overlap. -/
theorem modeByteOf_toNat (d : PixelDepth) (p : Bool) (l : ChannelLayout) (a : ChannelAccuracy) :
    (modeByteOf d p l a).toNat = 64 * d.code + 32 * p.toNat + 2 * l.code + a.code := by
  cases d <;> cases p <;> cases l <;> cases a <;> rfl

/-- The mode byte (R235). -/
theorem encodeMode_fills (hroom : 8 ≤ s.bufLen) : Fills s 56 64 (fun m => (bufByte m 7).toNat =
    64 * s.depth.code + 32 * s.palEmb.toNat + 2 * s.layout.code + s.acc.code) encodeMode := by
  have hbyte : Fills s 56 64 _ (writeBits (modeByteOf s.depth s.palEmb s.layout s.acc).toNat 8) :=
    writeBits_fills (n := 8) (by decide) (by decide) (BitVec.isLt _) (by omega)
  rw [modeByteOf_toNat] at hbyte
  refine (hbyte.mono fun m hm => (memRead_byte m 7).symm.trans hm).congr fun _ m => ⟨.eMode, ?_⟩
  rw [← modeByteOf_toNat]
  rfl

/-- The bytes of the two dimensions (30_encoding.md R96). -/
theorem dimensionBytes {m : List Host.Cell} {w h : BitVec 12} (hw : streamWidth m = w.toNat)
    (hh : streamHeight m = h.toNat) :
    (bufByte m 8).toNat = w.toNat / 16 ∧ (bufByte m 9).toNat = w.toNat % 16 * 16 + h.toNat / 256 ∧
    (bufByte m 10).toNat = h.toNat % 256 := by
  have h8 := (bufByte m 8).isLt
  have h9 := (bufByte m 9).isLt
  have h10 := (bufByte m 10).isLt
  rw [streamWidth] at hw
  rw [streamHeight] at hh
  omega

/-- The dimensions (R235). -/
theorem encodeDim_fills (hroom : 11 ≤ s.bufLen) : Fills s 64 88 (fun m => (bufByte m 8).toNat = s.width.toNat / 16 ∧
    (bufByte m 9).toNat = s.width.toNat % 16 * 16 + s.height.toNat / 256 ∧
    (bufByte m 10).toNat = s.height.toNat % 256) encodeDim := by
  have hw : Fills s 64 76 _ (writeBits s.width.toNat 12) :=
    writeBits_fills (n := 12) (by decide) (by decide) s.width.isLt (by omega)
  have hh : Fills s 76 88 _ (writeBits s.height.toNat 12) :=
    writeBits_fills (n := 12) (by decide) (by decide) s.height.isLt (by omega)
  have hheld : Fills s 76 88 _ fun t => writeBits t.height.toNat 12 t := hh.congr fun ph _ => ⟨ph, rfl⟩
  refine ((hw.seq hheld).mono fun m ⟨hw, hh⟩ => ?_).congr fun _ m => ⟨.eDim, rfl⟩
  rw [← streamWidth_eq] at hw
  rw [← streamHeight_eq] at hh
  exact dimensionBytes hw hh

/-! The palette and the pixels (R236, R237). -/

theorem storedChannels_getElem? {l : ChannelLayout} (c : Color) {j : Nat} (hj : j < channelCountFor l) :
    (storedChannels l c)[j]? = some (c.nth j) := by
  cases l with
  | grayscale =>
    obtain rfl : j = 0 := Nat.lt_one_iff.1 hj
    rfl
  | rgb =>
    match j, hj with
    | 0, _ | 1, _ | 2, _ => rfl
  | rgba =>
    match j, hj with
    | 0, _ | 1, _ | 2, _ | 3, _ => rfl

/-- BUF holds the stored channels of `c` from position `p` on (42_palette.md R184). -/
def HoldsEntry (l : ChannelLayout) (acc : ChannelAccuracy) (c : Color) (p : Nat) (m : List Host.Cell) : Prop :=
  ∀ j, j < channelCountFor l →
    memRead m (p + j * bitsPerChannelFor acc) (bitsPerChannelFor acc) = keptValue acc (c.nth j)

theorem writeEntry_fills (c : Color) (l : ChannelLayout) (acc : ChannelAccuracy)
    (hroom : p + entryBits l acc ≤ 8 * s.bufLen) :
    Fills s p (p + entryBits l acc) (HoldsEntry l acc c p) (writeEntry c l acc) := by
  rw [entryBits, ← storedChannels_length l c] at hroom ⊢
  refine (writeChannels_fills acc (storedChannels l c) hroom).mono fun m hm j hj => ?_
  have hfield := congrArg (·[j]?) hm
  simp only [storedChannels_length, fieldsAt_getElem?_of_lt _ _ _ _ hj, List.getElem?_map, storedChannels_getElem? c hj,
    Option.map_some] at hfield
  rw [← storedValue_eq_keptValue]
  exact Option.some.inj hfield

theorem imageP0_eq (s : State) : s.imageP0 = 8 * ceil8 (88 + s.paletteBits) := by
  simp only [State.imageP0, ceil8]
  omega

theorem eight_mul_byteCount (s : State) : 8 * s.byteCount = 8 * ceil8 (s.imageP0 + s.pixelBits) := by
  simp only [State.byteCount, State.imageP0, ceil8]
  omega

theorem paletteBits_of_embedded (h : s.palEmb = true) :
    s.paletteBits = colorCountFor s.depth * entryBits s.layout s.acc := by
  rw [State.paletteBits, if_pos h, entryBits, Nat.mul_assoc]

theorem paletteBits_of_notEmbedded (h : s.palEmb ≠ true) : s.paletteBits = 0 := if_neg h

/-- The embedded palette of the image of `s` is in BUF, as `HoldsEncoding` says. -/
def HoldsPalette (s : State) (m : List Host.Cell) : Prop :=
  s.palEmb = true → ∀ i j, i < colorCountFor s.depth → j < channelCountFor s.layout →
    memRead m (88 + (i * channelCountFor s.layout + j) * bitsPerChannelFor s.acc) (bitsPerChannelFor s.acc) =
      keptValue s.acc ((palEntry s.palram i).nth j)

theorem holdsPalette_of_entries {m : List Host.Cell}
    (h : ∀ i, i < colorCountFor s.depth →
      HoldsEntry s.layout s.acc (palEntry s.palram i) (88 + i * entryBits s.layout s.acc) m) : HoldsPalette s m := by
  intro _ i j hi hj
  have hoffset : 88 + (i * channelCountFor s.layout + j) * bitsPerChannelFor s.acc =
      88 + i * entryBits s.layout s.acc + j * bitsPerChannelFor s.acc := by
    rw [entryBits, Nat.add_mul, Nat.mul_assoc, Nat.add_assoc]
  rw [hoffset]
  exact h i hi j hj

/-- The palette, if there is one, and its padding (R236). -/
theorem encodePal_fills (hroom : s.imageP0 ≤ 8 * s.bufLen) : Fills s 88 s.imageP0
    (fun m => HoldsPalette s m ∧ ZeroBits (88 + s.paletteBits) s.imageP0 m) encodePal := by
  rw [imageP0_eq] at hroom ⊢
  by_cases hp : s.palEmb = true
  · have hfits : 88 + s.paletteBits ≤ 8 * s.bufLen := by rw [ceil8] at hroom; omega
    have hentries := Fills.list (s := s) (w := entryBits s.layout s.acc) (k := 0) (p := 88)
      (P := fun i p => HoldsEntry s.layout s.acc (palEntry s.palram i) p)
      (f := fun i t => writeEntry (palEntry t.palram i) t.layout t.acc t) (fs := writeEntries)
      (fun _ _ => rfl) (fun _ _ _ => rfl) (colorCountFor s.depth)
      (fun i p _ _ hroom => (writeEntry_fills (palEntry s.palram i) s.layout s.acc hroom).congr fun ph m => ⟨ph, rfl⟩)
      (by rwa [← paletteBits_of_embedded hp])
    rw [← paletteBits_of_embedded hp] at hentries
    simp only [Nat.zero_add] at hentries
    exact ((hentries.mono fun _ => holdsPalette_of_entries).seq (writePad_fills hfits)).congr
      fun ph m => ⟨.ePal, if_pos hp⟩
  · rw [paletteBits_of_notEmbedded hp]
    have hdone : Fills s 88 88 (fun m => HoldsPalette s m ∧ ZeroBits 88 88 m) fun t => .done () t :=
      .done fun m => ⟨fun h => absurd h hp, fun b hb hb' => by omega⟩
    exact hdone.congr fun ph m => ⟨.ePal, if_neg hp⟩

/-- The pixels and their padding (R237). -/
theorem encodePix_fills (hpix : PixelsInRange s) (hroom : s.byteCount ≤ s.bufLen) : Fills s s.imageP0 (8 * s.byteCount)
    (fun m => (∀ k, k < s.pixelCount → memRead m (s.imageP0 + k * bitsPerPixelFor s.depth) (bitsPerPixelFor s.depth) =
      (pixEntry s.pixram k).toNat) ∧ ZeroBits (s.imageP0 + s.pixelBits) (8 * s.byteCount) m) encodePix := by
  have hfits : s.imageP0 + s.pixelBits ≤ 8 * s.bufLen := by
    have hbytes := eight_mul_byteCount s
    rw [ceil8] at hbytes
    omega
  rw [eight_mul_byteCount]
  have hbits : s.pixelBits = s.pixelCount * bitsPerPixelFor s.depth := Nat.mul_comm _ _
  have hpixel : ∀ k p, 0 ≤ k → k < 0 + s.pixelCount → p + bitsPerPixelFor s.depth ≤ 8 * s.bufLen →
      Fills s p (p + bitsPerPixelFor s.depth) (fun m => memRead m p (bitsPerPixelFor s.depth) = (pixEntry s.pixram k).toNat)
        fun t => writeBits (pixEntry t.pixram k).toNat (bitsPerPixelFor t.depth) t := by
    intro k p _ hk hroom
    have hvalue : (pixEntry s.pixram k).toNat < 2 ^ bitsPerPixelFor s.depth :=
      colorCountFor_eq_two_pow s.depth ▸ hpix k (by omega)
    have hle := bitsPerPixelFor_le_eight s.depth
    exact (writeBits_fills (bitsPerPixelFor_pos s.depth) (by omega) hvalue hroom).congr fun ph m => ⟨ph, rfl⟩
  have hplane := Fills.list (fs := writePixels) (fun _ _ => rfl) (fun _ _ _ => rfl) s.pixelCount hpixel
    (by rwa [← hbits])
  rw [← hbits] at hplane
  simp only [Nat.zero_add] at hplane
  exact (hplane.seq (writePad_fills hfits)).congr fun ph m => ⟨.ePix, rfl⟩

/-! The whole of ENCODE. -/

/-- The five sections of the stream, one after the other. -/
def encodeSections (s : State) : Run Unit :=
  (encodeSig s).andThen fun _ s => (encodeMode s).andThen fun _ s => (encodeDim s).andThen fun _ s =>
  (encodePal s).andThen fun _ s => encodePix s

theorem encodeSections_fills (hpix : PixelsInRange s) (hroom : s.byteCount ≤ s.bufLen) :
    Fills s 0 (8 * s.byteCount) (HoldsEncoding s) encodeSections := by
  have h11 := le_byteCount s
  have hP0 : s.imageP0 ≤ 8 * s.bufLen := by
    have hbytes := eight_mul_byteCount s
    rw [ceil8] at hbytes
    omega
  have hall := (encodeSig_fills (by omega)).seq ((encodeMode_fills (by omega)).seq ((encodeDim_fills (by omega)).seq
    ((encodePal_fills hP0).seq (encodePix_fills hpix hroom))))
  refine Fills.mono hall ?_
  rintro m ⟨hsig, hmode, ⟨hb8, hb9, hb10⟩, ⟨hpal, hpad⟩, hpixels, hlast⟩
  exact ⟨hsig, hmode, hb8, hb9, hb10, hpal, hpad, hpixels, hlast⟩

theorem encodeSteps_eq (hasTarget : Bool) (s : State) : encodeSteps hasTarget s =
    (encodeBuffer hasTarget s).andThen fun _ t => (encodeSections t).andThen fun _ => encodeDone := by
  simp only [encodeSteps, encodeSections, Run.andThen_assoc]

/-- The length of the buffer ENCODE writes to: the target's, or that of the encoding (R234). -/
def State.encodeLen (s : State) : Nat := if s.arg[0].toNat = 1 then s.bufLen else s.byteCount

/-- `s` after an ENCODE that left `m` in BUF (R238). -/
def State.encoded (m : List Host.Cell) (s : State) : State :=
  { s with
    err := 0
    errSub := 0
    buf := m
    bufLen := s.encodeLen
    pos := 8 * s.byteCount
    outLen := s.byteCount
    res := s.res.set 0 (BitVec.ofNat 32 s.byteCount)
    seq := .idle }

/-- The checks that ENCODE makes pass, and it starts at the first bit of a buffer that is long enough. -/
theorem encodeBuffer_of_accepts (h : EncodeAccepts s) : s.byteCount ≤ s.encodeLen ∧
    encodeBuffer (flagOf s.arg[0]) s.begin =
      .done () ({ s.begin with bufLen := s.encodeLen }.inEncode .eCheck s.buf 0) := by
  obtain ⟨-, ⟨hone, hroom⟩ | ⟨hzero, hroom⟩⟩ := h
  · have hlen : s.encodeLen = s.bufLen := if_pos hone
    rw [hlen, flagOf_of_one hone]
    exact ⟨hroom, if_neg (Nat.not_lt.2 hroom)⟩
  · have hlen : s.encodeLen = s.byteCount := if_neg (by omega)
    rw [hlen, flagOf_of_zero hzero]
    exact ⟨le_rfl, if_neg (Nat.not_lt.2 hroom)⟩

/-- ENCODE of an image that fits, in closed form but for BUF: there its bits are the encoding of the image, and every bit after
them is as it was. -/
theorem exec_encode_of_accepts (hinv : Inv s) (h : EncodeAccepts s) :
    ∃ m, exec .encode s = .next (s.encoded m) ∧
      (∀ m', (∀ b, b < 8 * s.byteCount → bufBit m' b = bufBit m b) → HoldsEncoding s m') ∧
      ∀ b, 8 * s.byteCount ≤ b → bufBit m b = bufBit s.buf b := by
  have himg : s.imgValid = true := h.1
  have hflag : s.arg[0].toNat ≤ 1 := by
    obtain ⟨-, ⟨hone, -⟩ | ⟨hzero, -⟩⟩ := h <;> omega
  obtain ⟨hroom, hbuffer⟩ := encodeBuffer_of_accepts h
  have hfills := encodeSections_fills (s := { s.begin with bufLen := s.encodeLen }) (hinv.image himg) hroom
  obtain ⟨ph, m, hrun, -, hkeep, hholds⟩ := hfills.fills .eCheck s.buf hinv.bufWf
  refine ⟨m, ?_, fun m' hm' => hholds m' fun b _ => hm' b, fun b hb => hkeep b (.inr hb)⟩
  rw [exec_encode_of_image hflag himg, encodeSteps_eq, hbuffer, Run.done_andThen, hrun]
  rfl

/-- Settles O54: the sections follow one another, and each stays as it was written. -/
theorem encodeWritesTheStream : Obligations.EncodeWritesTheStream := by
  intro s hinv haccepts
  obtain ⟨m, hexec, hholds, -⟩ := exec_encode_of_accepts hinv haccepts
  exact ⟨_, hexec, hholds m fun _ _ => rfl⟩

/-- Settles O53: the sections fill the bits from 0 to the byte count's, so that no write of them raises or reaches a later
byte. -/
theorem encodeCompletesOnceChecked : Obligations.EncodeCompletesOnceChecked := by
  intro s hinv haccepts
  obtain ⟨m, hexec, -, hkeep⟩ := exec_encode_of_accepts hinv haccepts
  refine ⟨_, hexec, ?_, by simp [OthersOfResKept, State.encoded],
    fun j hj => bufByte_ext fun b hb _ => hkeep b (by omega), ?_⟩
  · exact (congrArg BitVec.toNat (Vector.getElem_set_self _)).trans (byteCount_word s)
  · rw [State.encoded, ← hinv.idle]
    rfl

end Sys2Proof.Machine
end

section
/-! PROOFS. ENCODE and DECODE of each other's results: what the header of a stream announces, the image DECODE makes of an
encoding, the stream an encoding is determined to be, and from these the statements of 44_imagecodec_encode.md R240. -/

namespace Sys2Proof.Machine

variable {s : State} {m m' : List Host.Cell} {i j p q : Nat}

/-! The header of the image's stream. -/

/-- The mode byte and the dimensions of the stream in `m` are those of the image of `s`. -/
structure Announces (m : List Host.Cell) (s : State) : Prop where
  depth    : streamDepth m = s.depth.code
  palette  : streamPalette m = s.palEmb.toNat
  layout   : streamLayout m = s.layout.code
  accuracy : streamAccuracy m = s.acc.code
  width    : streamWidth m = s.width.toNat
  height   : streamHeight m = s.height.toNat

theorem Announces.paletteBits_eq (h : Announces m s) : streamPaletteBits m = s.paletteBits := by
  rw [streamPaletteBits, h.palette, h.depth, h.layout, h.accuracy, ccOf_code, chOf_code, bpcOf_code, State.paletteBits]
  cases s.palEmb <;> simp

theorem Announces.p0_eq (h : Announces m s) : streamP0 m = s.imageP0 := by
  rw [streamP0, h.paletteBits_eq, State.imageP0]

theorem Announces.pixels_eq (h : Announces m s) : streamPixels m = s.pixelCount := by
  rw [streamPixels, h.width, h.height, State.pixelCount]

theorem Announces.end_eq (h : Announces m s) : streamEnd m = s.imageP0 + s.pixelBits := by
  rw [streamEnd, h.p0_eq, h.pixels_eq, h.depth, bppOf_code, State.pixelBits, Nat.mul_comm]

/-- The bytes of the stream are as many as those of the image's encoding. -/
theorem Announces.byteCount_eq (h : Announces m s) : ceil8 (streamEnd m) = s.byteCount := by
  have hbytes := eight_mul_byteCount s
  rw [h.end_eq]
  omega

theorem PixelDepth.code_le (d : PixelDepth) : d.code ≤ 2 := by cases d <;> decide
theorem ChannelLayout.code_le (l : ChannelLayout) : l.code ≤ 2 := by cases l <;> decide
theorem ChannelAccuracy.code_le (a : ChannelAccuracy) : a.code ≤ 1 := by cases a <;> decide

theorem HoldsEncoding.announces (h : HoldsEncoding s m) : Announces m s := by
  obtain ⟨-, hmode, hb8, hb9, hb10, -⟩ := h
  have hd := s.depth.code_le
  have hp := s.palEmb.toNat_le
  have hl := s.layout.code_le
  have ha := s.acc.code_le
  have hw := s.width.isLt
  have hh := s.height.isLt
  constructor
  · rw [streamDepth]; omega
  · rw [streamPalette]; omega
  · rw [streamLayout]; omega
  · rw [streamAccuracy]; omega
  · rw [streamWidth]; omega
  · rw [streamHeight]; omega

/-! The image DECODE makes of an encoding. -/

/-- DECODE accepts an encoding in a buffer that is long enough for it. -/
theorem HoldsEncoding.accepts {len : Nat} (h : HoldsEncoding s m) (hlen : s.byteCount ≤ len) : DecodeAccepts m len := by
  have hann := h.announces
  obtain ⟨hsig, -⟩ := h
  have h11 := le_byteCount s
  have hd := s.depth.code_le
  have hl := s.layout.code_le
  have hend := hann.byteCount_eq
  rw [ceil8] at hend
  exact ⟨by omega, hsig, by rw [hann.depth]; omega, by rw [hann.layout]; omega, by omega⟩

/-- A stored channel comes back as R185 says. -/
theorem channelOf_keptValue (acc : ChannelAccuracy) (x : Byte) :
    channelOf acc.code (keptValue acc x) = returnedChannel acc x := by
  cases acc with
  | twoBit => exact Nat.mul_comm _ _
  | eightBit => rfl

/-- A stored channel is what is stored of the channel it stands for. -/
theorem keptValue_of_channelOf {acc : ChannelAccuracy} {x : Byte} {v : Nat} (hv : v < 2 ^ bitsPerChannelFor acc)
    (hx : x.toNat = channelOf acc.code v) : keptValue acc x = v := by
  cases acc with
  | twoBit =>
    rw [keptValue, hx]
    exact (congrArg (· / 64) (Nat.mul_comm v 85)).trans (level_div_64 hv)
  | eightBit => exact hx

/-- The stored channels of a stream with the header of `s`, at their offsets. -/
theorem Announces.streamChannel_eq (h : Announces m s) (i j : Nat) :
    streamChannel m i j = channelOf s.acc.code (memRead m
      (88 + (i * channelCountFor s.layout + j) * bitsPerChannelFor s.acc) (bitsPerChannelFor s.acc)) := by
  rw [streamChannel, h.layout, h.accuracy, chOf_code, bpcOf_code]

/-- An entry of the embedded palette comes back as R185 says. -/
theorem isReturnedColor_of_isStreamColor {c : Color} (hann : Announces m s) (hpal : HoldsPalette s m)
    (hemb : s.palEmb = true) (hi : i < colorCountFor s.depth) (hc : IsStreamColor m i c) :
    IsReturnedColor s.layout s.acc (palEntry s.palram i) c := by
  have hchannel : ∀ j, j < channelCountFor s.layout →
      streamChannel m i j = returnedChannel s.acc ((palEntry s.palram i).nth j) := fun j hj => by
    rw [hann.streamChannel_eq, hpal hemb i j hi hj, channelOf_keptValue]
  have hlayout := hann.layout
  rw [IsStreamColor] at hc
  cases hl : s.layout with
  | grayscale =>
    rw [hl] at hchannel hlayout
    rw [hchannel 0 (by decide), hlayout] at hc
    exact hc
  | rgb =>
    rw [hl] at hchannel hlayout
    rw [hchannel 0 (by decide), hchannel 1 (by decide), hchannel 2 (by decide), hlayout] at hc
    exact hc
  | rgba =>
    rw [hl] at hchannel hlayout
    rw [hchannel 0 (by decide), hchannel 1 (by decide), hchannel 2 (by decide), hchannel 3 (by decide), hlayout] at hc
    exact hc

/-- DECODE of an encoding gives the registers of the image back. -/
theorem Announces.decoded_eq {t : State} (h : Announces t.buf s) :
    t.decoded.depth = s.depth ∧ t.decoded.palEmb = s.palEmb ∧ t.decoded.layout = s.layout ∧ t.decoded.acc = s.acc ∧
    t.decoded.width = s.width ∧ t.decoded.height = s.height := by
  have hp : (streamPalette t.buf != 0) = s.palEmb := by
    rw [h.palette]
    cases s.palEmb <;> rfl
  exact ⟨(congrArg depthNamed h.depth).trans (depthNamed_of_code _), hp,
    (congrArg layoutNamed h.layout).trans (layoutNamed_of_code _),
    (congrArg accuracyNamed h.accuracy).trans (accuracyNamed_of_code _),
    BitVec.eq_of_toNat_eq ((streamHeader_width _).trans h.width),
    BitVec.eq_of_toNat_eq ((streamHeader_height _).trans h.height)⟩

/-- It gives the pixels back. -/
theorem HoldsEncoding.pixEntry_decoded {t : State} {k : Nat} (h : HoldsEncoding s t.buf)
    (hwf : Memory.wf unlistedByte t.pixram) (hk : k < s.pixelCount) :
    pixEntry t.decoded.pixram k = pixEntry s.pixram k := by
  have hann := h.announces
  obtain ⟨-, -, -, -, -, -, -, hpix, -⟩ := h
  have hentry := Machine.pixEntry_decoded (k := k) hwf (hann.pixels_eq ▸ hk)
  rw [hann.p0_eq, hann.depth, bppOf_code, hpix k hk] at hentry
  exact BitVec.eq_of_toNat_eq hentry

/-- It gives back what an embedded palette stores, or else the default palette. -/
theorem HoldsEncoding.palEntry_decoded {t : State} (h : HoldsEncoding s t.buf)
    (hwf : Memory.wf unlistedColor t.palram) (hi : i < colorCountFor s.depth) :
    if s.palEmb then IsReturnedColor s.layout s.acc (palEntry s.palram i) (palEntry t.decoded.palram i)
    else IsDefaultColor s.depth.code i (palEntry t.decoded.palram i) := by
  have hann := h.announces
  obtain ⟨-, -, -, -, -, hpal, -⟩ := h
  have hcount : ccOf (streamDepth t.buf) = colorCountFor s.depth := by rw [hann.depth, ccOf_code]
  have hentry := Machine.palEntry_decoded hwf (hcount ▸ hi)
  rw [hann.palette, hann.depth] at hentry
  cases hemb : s.palEmb with
  | true =>
    rw [hemb] at hentry
    exact isReturnedColor_of_isStreamColor hann hpal hemb hi hentry
  | false =>
    rw [hemb] at hentry
    exact hentry

/-- Settles O55: the encoding has the header of the image, and each field of it comes back from its place. -/
theorem decodeUndoesEncode : Obligations.DecodeUndoesEncode := by
  intro s hinv haccepts
  obtain ⟨m, hencode, hwritten, -⟩ := exec_encode_of_accepts hinv haccepts
  obtain ⟨hroom, -⟩ := encodeBuffer_of_accepts haccepts
  have hholds : HoldsEncoding s (s.encoded m).buf := hwritten m fun _ _ => rfl
  obtain ⟨hdepth, hpalEmb, hlayout, hacc, hwidth, hheight⟩ := hholds.announces.decoded_eq
  exact ⟨_, _, hencode, exec_decode_of_accepts (hholds.accepts hroom), rfl, rfl, hdepth, hpalEmb, hlayout, hacc, hwidth,
    hheight, fun k hk => hholds.pixEntry_decoded hinv.pixWf hk, fun i hi => hholds.palEntry_decoded hinv.palWf hi⟩

/-! The stream an encoding is determined to be. -/

/-- Two buffers that hold the same field agree on its bits. -/
theorem bufBit_eq_of_memRead_eq {w : Nat} (h : memRead m p w = memRead m' p w) (hq : p ≤ q) (hqw : q < p + w) :
    bufBit m q = bufBit m' q := by
  have hbit := congrArg (Nat.testBit · (w - 1 - (q - p))) h
  have hpos : p + (w - 1 - (w - 1 - (q - p))) = q := by omega
  have hin : w - 1 - (q - p) < w := by omega
  simpa only [testBit_memRead, hpos, decide_eq_true hin, Bool.true_and] using hbit

/-- Two buffers that hold the same `n` consecutive fields agree on their bits. -/
theorem bufBit_eq_of_fields_eq {w n : Nat} (h : ∀ k, k < n → memRead m (p + k * w) w = memRead m' (p + k * w) w)
    (hq : p ≤ q) (hqn : q < p + n * w) : bufBit m q = bufBit m' q := by
  have hk : (q - p) / w < n := Nat.div_lt_of_lt_mul (by rw [Nat.mul_comm]; omega)
  have hsplit := Nat.div_add_mod' (q - p) w
  have hrem : (q - p) % w < w := Nat.mod_lt _ (Nat.pos_of_mul_pos_left (a := n) (by omega))
  exact bufBit_eq_of_memRead_eq (h _ hk) (by omega) (by omega)

/-- The palette section of an encoding is determined by the image. -/
theorem HoldsPalette.bufBit_eq (h : HoldsPalette s m) (h' : HoldsPalette s m') (hq : 88 ≤ q)
    (hqn : q < 88 + s.paletteBits) : bufBit m q = bufBit m' q := by
  by_cases hemb : s.palEmb = true
  · refine bufBit_eq_of_fields_eq (n := colorCountFor s.depth * channelCountFor s.layout) (fun k hk => ?_) hq
      (by rwa [State.paletteBits, if_pos hemb] at hqn)
    have hch : 0 < channelCountFor s.layout := Nat.pos_of_mul_pos_left (a := colorCountFor s.depth) (by omega)
    have hi : k / channelCountFor s.layout < colorCountFor s.depth := Nat.div_lt_of_lt_mul (by rwa [Nat.mul_comm])
    have hj : k % channelCountFor s.layout < channelCountFor s.layout := Nat.mod_lt _ hch
    have hfield := h hemb _ _ hi hj
    have hfield' := h' hemb _ _ hi hj
    rw [Nat.div_add_mod'] at hfield hfield'
    rw [hfield, hfield']
  · rw [paletteBits_of_notEmbedded hemb] at hqn
    omega

/-- Every byte of an encoding is determined by the image. -/
theorem HoldsEncoding.bufByte_eq (h : HoldsEncoding s m) (h' : HoldsEncoding s m') (hj : j < s.byteCount) :
    bufByte m j = bufByte m' j := by
  obtain ⟨hsig, hmode, hb8, hb9, hb10, hpal, hpad, hpix, hlast⟩ := h
  obtain ⟨hsig', hmode', hb8', hb9', hb10', hpal', hpad', hpix', hlast'⟩ := h'
  have hheader : j < 7 ∨ j = 7 ∨ j = 8 ∨ j = 9 ∨ j = 10 ∨ 11 ≤ j := by omega
  rcases hheader with hj7 | rfl | rfl | rfl | rfl | hj11
  · exact List.map_inj_left.1 (hsig.trans hsig'.symm) j (List.mem_range.2 hj7)
  · exact BitVec.eq_of_toNat_eq (hmode.trans hmode'.symm)
  · exact BitVec.eq_of_toNat_eq (hb8.trans hb8'.symm)
  · exact BitVec.eq_of_toNat_eq (hb9.trans hb9'.symm)
  · exact BitVec.eq_of_toNat_eq (hb10.trans hb10'.symm)
  refine bufByte_ext fun q hq hqj => ?_
  rcases Nat.lt_or_ge q (88 + s.paletteBits) with hqpal | hqpal
  · exact HoldsPalette.bufBit_eq hpal hpal' (by omega) hqpal
  rcases Nat.lt_or_ge q s.imageP0 with hqp0 | hqp0
  · rw [hpad q hqpal hqp0, hpad' q hqpal hqp0]
  rcases Nat.lt_or_ge q (s.imageP0 + s.pixelBits) with hqpix | hqpix
  · refine bufBit_eq_of_fields_eq (n := s.pixelCount) (fun k hk => (hpix k hk).trans (hpix' k hk).symm) hqp0 ?_
    rwa [State.pixelBits, Nat.mul_comm] at hqpix
  · rw [hlast q hqpix (by omega), hlast' q hqpix (by omega)]

/-! The stream of a decoded image. -/

/-- The channels of a palette entry of the stream, in their order. -/
theorem IsStreamColor.nth_toNat {l : ChannelLayout} {c : Color} (hl : streamLayout m = l.code) (hc : IsStreamColor m i c)
    (hj : j < channelCountFor l) : (c.nth j).toNat = streamChannel m i j := by
  rw [IsStreamColor, hl] at hc
  cases l with
  | grayscale =>
    obtain rfl : j = 0 := Nat.lt_one_iff.1 hj
    exact hc.1
  | rgb =>
    obtain ⟨hr, hg, hb, -⟩ := hc
    match j, hj with
    | 0, _ => exact hr
    | 1, _ => exact hg
    | 2, _ => exact hb
  | rgba =>
    obtain ⟨hr, hg, hb, ha⟩ := hc
    match j, hj with
    | 0, _ => exact hr
    | 1, _ => exact hg
    | 2, _ => exact hb
    | 3, _ => exact ha

section
variable (hacc : DecodeAccepts s.buf s.bufLen)
include hacc

theorem announces_decoded : Announces s.buf s.decoded := by
  obtain ⟨-, -, hd, hl, -⟩ := hacc
  exact ⟨(depthNamed_code (streamDepth_le hd)).symm, (bne_zero_toNat (streamPalette_lt _)).symm,
    (layoutNamed_code (streamLayout_le hl)).symm, (accuracyNamed_code (streamAccuracy_lt _)).symm,
    (streamHeader_width _).symm, (streamHeader_height _).symm⟩

/-- What ENCODE would store of a decoded palette is what the stream holds. -/
theorem holdsPalette_decoded (hwf : Memory.wf unlistedColor s.palram) : HoldsPalette s.decoded s.buf := by
  intro hemb i j hi hj
  have hann := announces_decoded hacc
  have hcount : i < ccOf (streamDepth s.buf) := by rwa [hann.depth, ccOf_code]
  have hcolor := palEntry_decoded hwf hcount
  rw [if_pos (by rw [hann.palette, hemb]; rfl)] at hcolor
  have hchannel := (hcolor.nth_toNat hann.layout hj).trans (hann.streamChannel_eq i j)
  exact (keptValue_of_channelOf (memRead_lt _ _ _) hchannel).symm

/-- A stream is the encoding of the image it decodes to exactly when its spare bits are zero. -/
theorem holdsEncoding_decoded_iff (hpal : Memory.wf unlistedColor s.palram) (hpix : Memory.wf unlistedByte s.pixram) :
    HoldsEncoding s.decoded s.buf ↔ SpareBitsZero s.buf := by
  have hann := announces_decoded hacc
  have hstored := holdsPalette_decoded hacc hpal
  obtain ⟨-, hsig, -⟩ := hacc
  have hmode : (bufByte s.buf 7).toNat = 64 * s.decoded.depth.code + 32 * s.decoded.palEmb.toNat +
      2 * s.decoded.layout.code + s.decoded.acc.code ↔ streamReserved s.buf = 0 := by
    have hbyte := (bufByte s.buf 7).isLt
    rw [← hann.depth, ← hann.palette, ← hann.layout, ← hann.accuracy, streamDepth, streamPalette, streamLayout,
      streamAccuracy, streamReserved]
    omega
  obtain ⟨hb8, hb9, hb10⟩ := dimensionBytes hann.width hann.height
  rw [SpareBitsZero, hann.paletteBits_eq, hann.p0_eq, hann.byteCount_eq, hann.end_eq]
  constructor
  · rintro ⟨-, hbyte, -, -, -, -, hpad, -, hlast⟩
    exact ⟨hmode.1 hbyte, hpad, hlast⟩
  · rintro ⟨hreserved, hpad, hlast⟩
    refine ⟨hsig, hmode.2 hreserved, hb8, hb9, hb10, hstored, hpad, fun k hk => ?_, hlast⟩
    have hentry := pixEntry_decoded (k := k) hpix (hann.pixels_eq ▸ hk)
    rw [hann.p0_eq, hann.depth, bppOf_code] at hentry
    exact hentry.symm

/-- ENCODE into the buffer of a decoded stream may start. -/
theorem encodeAccepts_decoded : EncodeAccepts (s.decoded.withArg0 1) := by
  have hbytes : ceil8 (streamEnd s.buf) = (s.decoded.withArg0 1).byteCount := (announces_decoded hacc).byteCount_eq
  obtain ⟨-, -, -, -, hend⟩ := hacc
  refine ⟨rfl, .inl ⟨State.withArg0_arg0_toNat (by decide) _, hbytes ▸ ?_⟩⟩
  change ceil8 (streamEnd s.buf) ≤ s.bufLen
  rw [ceil8]
  omega

end

/-- Settles O56: an encoding's bytes are determined by the image, so that the stream is reproduced exactly when it is the
encoding of the image it decodes to. -/
theorem encodeUndoesDecode : Obligations.EncodeUndoesDecode := by
  intro s hinv hacc
  have hdecode := exec_decode_of_accepts hacc
  have hinv' : Inv (s.decoded.withArg0 1) := { exec_inv rfl hdecode hinv with }
  obtain ⟨m, hencode, hwritten, -⟩ := exec_encode_of_accepts hinv' (encodeAccepts_decoded hacc)
  have hbytes : ceil8 (streamEnd s.buf) = s.decoded.byteCount := (announces_decoded hacc).byteCount_eq
  refine ⟨_, _, hdecode, hencode, rfl, hbytes.symm, ?_⟩
  rw [← holdsEncoding_decoded_iff hacc hinv.palWf hinv.pixWf]
  refine ⟨fun h => hwritten s.buf fun b hb => ?_, fun h j hj => ?_⟩
  · have hbyte : bufByte m (b / 8) = bufByte s.buf (b / 8) :=
      h (b / 8) (Nat.div_lt_of_lt_mul hb)
    rw [bufBit, bufBit, hbyte]
  · exact HoldsEncoding.bufByte_eq (s := s.decoded) (hwritten m fun _ _ => rfl) h hj

end Sys2Proof.Machine
end

section
/-! PROOFS. The host's accesses: what each writes, when one answers, and BUILD, the command that makes an image of what the host
wrote (45_host_system.md R250 to R252). -/

namespace Sys2Proof.Machine

variable {s : State}

/-! What a host access does (R251, R252). -/

/-- A read after a write, of any entry. -/
theorem Memory.read_write {α : Type} [DecidableEq α] {d v : α} {m : List (Nat × α)} (h : Memory.wf d m) (a b : Nat) :
    Memory.read d (Memory.write d a v m) b = if b = a then v else Memory.read d m b := by
  split
  · next hba => exact hba ▸ Memory.read_write_same h.1
  · next hba => exact Memory.read_write_ne hba

theorem arg_set_getElem (i j : Fin 6) (v : Word) : (s.arg.set i v)[j] = if j = i then v else s.arg[j] := by
  simp [Vector.getElem_set, Fin.ext_iff, eq_comm]

/-- The script is not among the registers the host reads. -/
theorem portRead_set_script (r : PortReg) (rest : List PortAction) :
    portRead r { s with script := rest } = portRead r s := by
  cases r <;> rfl

theorem act_read_of_ok {r : PortReg} {v : Nat} (h : portRead r s = .ok v) : act (.read r) s = .next s := by
  rw [act, portReadAction, h]

/-- Settles O7: each access is one update, and a canonical memory reads back what was written. -/
theorem hostWritesDoWhatTheyName : Obligations.HostWritesDoWhatTheyName := by
  refine fun s rest hinv => ⟨fun j b hs hj => ?_, fun n hs hn => ?_, fun i c hs => ?_, fun k v hs hk => ?_,
    fun i v hs => ?_, fun r v hs hread => ?_⟩
  · exact ⟨_, (step_cons hs).trans (if_pos hj), Memory.read_write hinv.bufWf j, rfl⟩
  · exact (step_cons hs).trans (if_pos hn)
  · exact ⟨_, step_cons hs, Memory.read_write hinv.palWf i.toNat, rfl⟩
  · exact ⟨_, (step_cons hs).trans (if_pos hk), Memory.read_write hinv.pixWf k, rfl⟩
  · exact ⟨_, step_cons hs, fun j => arg_set_getElem i j v, rfl⟩
  · exact (step_cons hs).trans (act_read_of_ok ((portRead_set_script r rest).trans hread))

/-! When an access answers (R21, R22, R33, R251). -/

/-- An access that stops where its guard fails answers exactly where the guard holds. -/
theorem guarded_answers_iff {p : Prop} [Decidable p] {t : State} {stop : Host.Outcome State Fault Refusal}
    (hstop : ∀ u, stop ≠ .next u) : (∃ u, (if p then .next t else stop) = .next u) ↔ p := by
  by_cases hp : p
  · simp [hp]
  · simp [hp, hstop]

theorem act_read_answers_iff (r : PortReg) : (∃ t, act (.read r) s = .next t) ↔ ∃ v, portRead r s = .ok v := by
  rw [act, portReadAction]
  cases portRead r s <;> simp

/-- Only the entries of BUF and PIXRAM can be missing. -/
theorem portRead_answers_iff (r : PortReg) : (∃ v, portRead r s = .ok v) ↔ ActionAllowed s (.read r) := by
  cases r with
  | buf _ | pixram _ =>
    rw [portRead, ActionAllowed]
    split <;> simp [*]
  | _ => exact iff_of_true ⟨_, rfl⟩ trivial

/-- A write of CMD answers whatever the opcode: a command ends in a next state, and so does BAD_COMMAND. -/
theorem act_writeCmd_answers (op : Byte) (s : State) : ∃ t, act (.writeCmd op) s = .next t := by
  cases hop : decodeOpcode op with
  | none => exact ⟨_, act_writeCmd_of_illegal hop⟩
  | some i =>
    rw [act_writeCmd_of_decode hop]
    exact everyInstructionAnswersANextState i _

theorem act_answers_iff (a : PortAction) : (∃ t, act a s = .next t) ↔ ActionAllowed s a := by
  cases a with
  | writeBuf j b => exact guarded_answers_iff (by simp)
  | writeBufLen n => exact guarded_answers_iff (by simp)
  | writePix k v => exact guarded_answers_iff (by simp)
  | writePal i c => exact iff_of_true ⟨_, rfl⟩ trivial
  | writeArg i v => exact iff_of_true ⟨_, rfl⟩ trivial
  | writeCmd op => exact iff_of_true (act_writeCmd_answers op s) trivial
  | read r => exact (act_read_answers_iff r).trans (portRead_answers_iff r)

/-- What the host may do does not depend on what it does later. -/
theorem actionAllowed_set_script (a : PortAction) (rest : List PortAction) :
    ActionAllowed { s with script := rest } a ↔ ActionAllowed s a := by
  cases a with
  | read r => cases r <;> exact Iff.rfl
  | _ => exact Iff.rfl

/-- Settles O9: an idle block answers, and any other step is the next action, which answers exactly where it is allowed. -/
theorem stepStopsOnlyForTheHost : Obligations.StepStopsOnlyForTheHost := by
  intro s
  cases hs : s.script with
  | nil => exact iff_of_true (by simp [NextActionAllowed, hs]) ⟨s, step_idle hs⟩
  | cons a rest =>
    rw [step_cons hs, act_answers_iff, actionAllowed_set_script]
    simp [NextActionAllowed, hs]

/-! BUILD (R250). -/

/-- The first operand out of its range is the one whose fault is raised. -/
theorem firstFault_append_of_not_admits {legal rest : List (OperandKind × Word)} {k : OperandKind} {v : Word}
    (hlegal : ∀ o ∈ legal, o.1.admits o.2 = true) (h : ¬ k.admits v = true) :
    firstFault (legal ++ (k, v) :: rest) = some k.cause := by
  induction legal with
  | nil => exact firstFault_cons_of_not_admits h
  | cons o legal ih =>
    obtain ⟨ho, hlegal⟩ := List.forall_mem_cons.1 hlegal
    exact (firstFault_cons_of_admits ho).trans (ih hlegal)

theorem dimension_admits {v : Word} : OperandKind.dimension.admits v = true ↔ v.toNat ≤ 4095 := by
  simp [OperandKind.admits]
theorem dimension_rejects {v : Word} (h : 4095 < v.toNat) : ¬ OperandKind.dimension.admits v = true := by
  rw [dimension_admits]; omega

theorem firstFault_buildOperands_of_legal (h : BuildOperands s) : firstFault (buildOperands s) = none := by
  obtain ⟨hd, hp, hl, ha, hw, hh⟩ := h
  refine firstFault_eq_none.2 ?_
  simp [buildOperands, depth_admits, flag_admits, layout_admits, dimension_admits, hd, hp, hl, ha, hw, hh]

/-- BUILD with operands `legal` in their ranges and the next one, `v`, out of its range. -/
theorem exec_build_of_illegal {legal rest : List (OperandKind × Word)} {k : OperandKind} {v : Word}
    (hops : buildOperands s = legal ++ (k, v) :: rest) (hlegal : ∀ o ∈ legal, o.1.admits o.2 = true)
    (h : ¬ k.admits v = true) : ∃ t, exec .build s = .next t ∧ RaisedOnly 15 k.cause.subCode s t :=
  finish_checkOperands_of_some _ (hops ▸ firstFault_append_of_not_admits hlegal h)

theorem checkPixels_of_below {cc n : Nat} (h : ∀ k, k < n → (pixEntry s.pixram k).toNat < cc) :
    checkPixels cc n s = .done () s :=
  if_pos ((pixelsBelow_iff n).2 fun k _ hk => h k (by omega))

theorem checkPixels_of_not_below {cc n k : Nat} (hk : k < n) (h : cc ≤ (pixEntry s.pixram k).toNat) :
    checkPixels cc n s = .raised (.assert .pixelRange) s :=
  if_neg fun hall => absurd ((pixelsBelow_iff n).1 hall k k.zero_le (by omega)) (by omega)

theorem colorCountFor_depthOf (v : Word) : colorCountFor (depthOf v) = ccOf v.toNat := by rw [depthOf_eq, ccOf_eq]

/-- IMG_VALID cleared: the first thing BUILD writes, its operands checked. -/
def State.withoutImage (s : State) : State := { s with imgValid := false }

/-- The image that the operands of BUILD name. -/
def State.withImage (s : State) : State :=
  { s with
    depth := depthOf s.arg[0], palEmb := flagOf s.arg[1], layout := layoutOf s.arg[2], acc := accuracyOf s.arg[3],
    width := s.arg[4].setWidth 12, height := s.arg[5].setWidth 12, imgValid := true }

/-- What BUILD does once its operands are checked. -/
def buildImage (s : State) : Run Unit :=
  (checkPixels (colorCountFor (depthOf s.arg[0])) (s.arg[4].toNat * s.arg[5].toNat) s.withoutImage).andThen
    fun _ t => .done () t.withImage

theorem buildImage_of_below
    (h : ∀ k, k < s.arg[4].toNat * s.arg[5].toNat → (pixEntry s.pixram k).toNat < ccOf s.arg[0].toNat) :
    buildImage s = .done () s.withImage := by
  rw [buildImage, colorCountFor_depthOf, checkPixels_of_below (s := s.withoutImage) h]
  rfl

theorem buildImage_of_not_below {k : Nat} (hk : k < s.arg[4].toNat * s.arg[5].toNat)
    (h : ccOf s.arg[0].toNat ≤ (pixEntry s.pixram k).toNat) :
    buildImage s = .raised (.assert .pixelRange) s.withoutImage := by
  rw [buildImage, colorCountFor_depthOf, checkPixels_of_not_below (s := s.withoutImage) hk h]
  rfl

theorem exec_build_of_legal (h : BuildOperands s) : exec .build s = (buildImage s.begin).finish :=
  finish_checkOperands_of_none _ (firstFault_buildOperands_of_legal h)

theorem dimension_toNat {v : Word} (h : v.toNat ≤ 4095) : (v.setWidth 12).toNat = v.toNat := by
  rw [BitVec.toNat_setWidth, Nat.mod_eq_of_lt (by omega)]

/-- Settles O57: of the six checks, in ARG order, the first that fails raises; then the pixels are checked with IMG_VALID
cleared; each register's value is the operand it was built from. -/
theorem buildMakesACheckedImage : Obligations.BuildMakesACheckedImage := by
  refine fun s => ⟨fun hops hpix => ?_, fun hops ⟨k, hk, hpix⟩ => ?_, fun hd => ?_, fun hd hp => ?_,
    fun hd hp hl => ?_, fun hd hp hl ha => ?_, fun hd hp hl ha hdim => ?_⟩
  · rw [exec_build_of_legal hops, buildImage_of_below (s := s.begin) hpix]
    obtain ⟨hd, hp, hl, ha, hw, hh⟩ := hops
    exact ⟨_, rfl, depthNamed_code hd, bne_zero_toNat (Nat.lt_succ_of_le hp), layoutNamed_code hl,
      accuracyNamed_code (Nat.lt_succ_of_le ha), dimension_toNat hw, dimension_toNat hh, rfl⟩
  · rw [exec_build_of_legal hops, buildImage_of_not_below (s := s.begin) hk hpix]
    exact ⟨_, rfl, raisedOnly_raise (x := .assert .pixelRange) (s := s.withoutImage) (by simp)⟩
  · exact exec_build_of_illegal (legal := []) rfl (by simp) (depth_rejects hd)
  · exact exec_build_of_illegal (legal := [_]) rfl (by simp [depth_admits, hd]) (flag_rejects hp)
  · exact exec_build_of_illegal (legal := [_, _]) rfl (by simp [depth_admits, flag_admits, hd, hp]) (layout_rejects hl)
  · exact exec_build_of_illegal (legal := [_, _, _]) rfl
      (by simp [depth_admits, flag_admits, layout_admits, hd, hp, hl]) (flag_rejects ha)
  · rcases Nat.lt_or_ge 4095 s.arg[4].toNat with hw | hw
    · exact exec_build_of_illegal (legal := [_, _, _, _]) rfl
        (by simp [depth_admits, flag_admits, layout_admits, hd, hp, hl, ha]) (dimension_rejects hw)
    · exact exec_build_of_illegal (legal := [_, _, _, _, _]) rfl
        (by simp [depth_admits, flag_admits, layout_admits, dimension_admits, hd, hp, hl, ha, hw])
        (dimension_rejects (by omega))

end Sys2Proof.Machine
end

section
/-! PROOFS. Exceptions: the codes a raise writes, the sizes an EncodeError carries, what a command that raised leaves as it was,
and from these the statements of 60_exceptions.md. -/

namespace Sys2Proof.Machine

variable {α β : Type} {i : Instr} {s t : State} {x : Exc}

/-- Settles O15: the codes cause by cause; the size registers hold a size below 2^32 as it is. -/
theorem raiseWritesTheCodes : Obligations.RaiseWritesTheCodes := by
  refine ⟨fun s c => ?_, fun s q c => ⟨rfl, sizeWord_toNat _, sizeWord_toNat _⟩, fun s c => ?_⟩
  · cases c <;> exact raisedOnly_raise (x := .decode _) (by simp)
  · cases c <;> exact raisedOnly_raise (x := .assert _) (by simp)

/-! How a run ends. -/

/-- Where the run is done `P` holds of its state; where it raised, `R` of the exception and the state it was raised in. -/
def Run.Ends (P : State → Prop) (R : Exc → State → Prop) : Run α → Prop
  | .done _ t => P t
  | .raised x t => R x t

variable {P Q : State → Prop} {R : Exc → State → Prop} {r : Run α}

theorem Run.Ends.andThen {f : α → State → Run β} (hr : r.Ends P R) (hf : ∀ a t, P t → (f a t).Ends Q R) :
    (r.andThen f).Ends Q R := by
  cases r with
  | done a u => exact hf a u hr
  | raised x u => exact hr

/-- A command that leaves ERR other than 0 took an exception that its run raised. -/
theorem Run.Ends.exists_raise {r : Run Unit} (hr : r.Ends P R) (hP : ∀ u, P u → u.err = 0) (h : r.finish = .next t)
    (herr : t.err ≠ 0) : ∃ x u, R x u ∧ t = u.raise x := by
  rcases Run.finish_eq_next.1 h with rfl | ⟨x, u, rfl, rfl⟩
  · exact absurd (hP t hr) herr
  · exact ⟨x, u, hr, rfl⟩

/-! The sizes of an EncodeError (60_exceptions.md R272). -/

theorem Exc.errCode_eq_eight_iff : x.errCode = 8 ↔ ∃ required actual, x = .bufferTooSmall required actual := by
  cases x with
  | decode c => cases c <;> simp [Exc.errCode]
  | bufferTooSmall q c => simp [Exc.errCode]
  | assert c => simp [Exc.errCode]

/-- If the exception carries sizes, the required one is above the actual one, and the registers hold both. -/
def Exc.SizesExceed (x : Exc) : Prop :=
  ∀ required actual, x = .bufferTooSmall required actual → actual < required ∧ required < 2 ^ 32

theorem Exc.SizesExceed.decode (c : DecodeCause) : (Exc.decode c).SizesExceed := fun _ _ h => by cases h

theorem Exc.SizesExceed.assert (c : AssertCause) : (Exc.assert c).SizesExceed := fun _ _ h => by cases h

theorem Exc.SizesExceed.bufferTooSmall {required actual : Nat} (h : actual < required) (hmax : required < 2 ^ 32) :
    (Exc.bufferTooSmall required actual).SizesExceed := by
  rintro _ _ ⟨⟩
  exact ⟨h, hmax⟩

theorem Exc.SizesExceed.raise (hx : x.SizesExceed) (herr : (s.raise x).err = 8) :
    (s.raise x).errAct.toNat < (s.raise x).errReq.toNat := by
  obtain ⟨required, actual, rfl⟩ := Exc.errCode_eq_eight_iff.1 herr
  obtain ⟨hlt, hmax⟩ := hx required actual rfl
  calc (s.raise (.bufferTooSmall required actual)).errAct.toNat
      = actual := sizeWord_toNat _ (hlt.trans hmax)
    _ < required := hlt
    _ = (s.raise (.bufferTooSmall required actual)).errReq.toNat := (sizeWord_toNat _ hmax).symm

/-- Inside a command that has not raised: no field of up to 32 bits, written at POS, needs a size the registers cannot hold. -/
def SizesFit (s : State) : Prop := s.err = 0 ∧ s.bufLen + 4 < 2 ^ 32 ∧ ceil8 (s.pos + 32) < 2 ^ 32

/-- A sub-step that keeps the sizes within the registers, or raises with the required size above the actual one. -/
def Run.KeepsSizes (r : Run α) : Prop := r.Ends SizesFit fun x _ => x.SizesExceed

theorem Run.KeepsSizes.andThen {f : α → State → Run β} (hr : r.KeepsSizes) (hf : ∀ a t, SizesFit t → (f a t).KeepsSizes) :
    (r.andThen f).KeepsSizes := Run.Ends.andThen hr hf

/-- A write that has no room lacks at most the four bytes of its field, and one that has room ends in the buffer. -/
theorem writeBits_keepsSizes (v n : Nat) (h : SizesFit s) : (writeBits v n s).KeepsSizes := by
  obtain ⟨herr, hlen, hpos⟩ := h
  obtain ⟨-, hw⟩ | ⟨-, -, -, hw⟩ | ⟨-, h32, -, hshort, hw⟩ | ⟨-, -, -, hroom, hw⟩ := writeBits_cases v n s <;> rw [hw]
  · exact .assert _
  · exact .assert _
  · simp only [ceil8] at hpos
    exact .bufferTooSmall (by simp only [ceil8]; omega) (by simp only [ceil8]; omega)
  · exact ⟨herr, hlen, by simp only [ceil8, State.advance_pos]; omega⟩

theorem writeChannels_keepsSizes (acc : ChannelAccuracy) (cs : List Byte) :
    ∀ s, SizesFit s → (writeChannels acc cs s).KeepsSizes := by
  induction cs with
  | nil => exact fun _ h => h
  | cons c cs ih => exact fun s h => (writeBits_keepsSizes _ _ h).andThen fun _ => ih

theorem writeBytes_keepsSizes (bs : List Byte) (h : SizesFit s) : (writeBytes bs s).KeepsSizes := by
  rw [writeBytes_eq_writeChannels]
  exact writeChannels_keepsSizes _ _ s h

theorem writeEntries_keepsSizes (n : Nat) : ∀ k s, SizesFit s → (writeEntries k n s).KeepsSizes := by
  induction n with
  | zero => exact fun _ _ h => h
  | succ n ih => exact fun k s h => (writeChannels_keepsSizes _ _ s h).andThen fun _ => ih (k + 1)

theorem writePixels_keepsSizes (n : Nat) : ∀ k s, SizesFit s → (writePixels k n s).KeepsSizes := by
  induction n with
  | zero => exact fun _ _ h => h
  | succ n ih => exact fun k s h => (writeBits_keepsSizes _ _ h).andThen fun _ => ih (k + 1)

theorem writePad_keepsSizes (h : SizesFit s) : (writePad s).KeepsSizes := by
  rw [writePad]
  split
  · exact writeBits_keepsSizes 0 _ h
  · exact h

/-- The required size is that of an encoding, below 2^32 for every image; the buffer ENCODE goes on with is the target's, or one
of that size. -/
theorem encodeBuffer_keepsSizes (hasTarget : Bool) (h : SizesFit s) : (encodeBuffer hasTarget s).KeepsSizes := by
  obtain ⟨herr, hlen, -⟩ := h
  have hcount := byteCount_le s
  have hstart : ceil8 (0 + 32) < 2 ^ 32 := by decide
  rw [encodeBuffer]
  split
  · split
    · next hshort => exact .bufferTooSmall hshort (hcount.trans_lt (by decide))
    · exact ⟨herr, hlen, hstart⟩
  · split
    · next hshort => exact .bufferTooSmall hshort (hcount.trans_lt (by decide))
    · exact ⟨herr, (Nat.add_le_add_right hcount 4).trans_lt (by decide), hstart⟩

theorem encodePal_keepsSizes (h : SizesFit s) : (encodePal s).KeepsSizes := by
  rw [encodePal]
  split
  · exact (writeEntries_keepsSizes _ 0 (s.goto .ePal) h).andThen fun _ _ => writePad_keepsSizes
  · exact h

theorem encodeSections_keepsSizes (h : SizesFit s) : (encodeSections s).KeepsSizes :=
  (writeBytes_keepsSizes sigBytes (s := s.goto .eSig) h).andThen fun _ t ht =>
  (writeBits_keepsSizes _ 8 (s := t.goto .eMode) ht).andThen fun _ t ht =>
  ((writeBits_keepsSizes _ 12 (s := t.goto .eDim) ht).andThen fun _ _ => writeBits_keepsSizes _ 12).andThen fun _ _ ht =>
  (encodePal_keepsSizes ht).andThen fun _ t ht =>
  (writePixels_keepsSizes _ 0 (t.goto .ePix) ht).andThen fun _ _ => writePad_keepsSizes

theorem encodeSteps_keepsSizes (hasTarget : Bool) (h : SizesFit s) : (encodeSteps hasTarget s).KeepsSizes := by
  rw [encodeSteps_eq]
  exact (encodeBuffer_keepsSizes hasTarget h).andThen fun _ _ ht =>
    (encodeSections_keepsSizes ht).andThen fun _ _ ht => ht

theorem checkOperands_keepsSizes (ops : List (OperandKind × Word)) (h : SizesFit s) : (checkOperands ops s).KeepsSizes := by
  rw [checkOperands]
  split
  · exact .assert _
  · exact h

theorem needImage_keepsSizes (h : SizesFit s) : (needImage s).KeepsSizes := by
  rw [needImage]
  split
  · exact h
  · exact .assert _

/-- The two commands that can raise an EncodeError. -/
theorem exec_writer_keepsSizes (hi : i ∈ [Instr.writebits, .encode]) (h : SizesFit s.begin) :
    ∃ r : Run Unit, exec i s = r.finish ∧ r.KeepsSizes := by
  obtain rfl | rfl : i = .writebits ∨ i = .encode := by simpa using hi
  · exact ⟨_, exec_writebits s, writeBits_keepsSizes _ _ h⟩
  · exact ⟨_, rfl, (checkOperands_keepsSizes _ h).andThen fun _ _ ht =>
      (needImage_keepsSizes ht).andThen fun _ _ => encodeSteps_keepsSizes _⟩

theorem exec_sizesExceed (hi : i.isCommand = true) (hfit : SizesFit s.begin) (h : exec i s = .next t) (herr : t.err ≠ 0) :
    ∃ x u, Exc.SizesExceed x ∧ t = State.raise x u := by
  by_cases hw : i ∈ [Instr.writebits, .encode]
  · obtain ⟨r, hr, hkeeps⟩ := exec_writer_keepsSizes hw hfit
    exact hkeeps.exists_raise (fun _ hu => hu.1) (hr ▸ h) herr
  · rcases exec_cases hi h with ⟨heff, -⟩ | ⟨x, u, -, hx, rfl⟩
    · exact absurd heff.status.err herr
    · exact ⟨x, u, fun _ _ hsizes => absurd hsizes (hx hw _ _), rfl⟩

/-- Settles O16: of the commands only WRITEBITS and ENCODE raise an EncodeError, each where the size it asks for is above the
one there is. -/
theorem requiredSizeExceedsActualSize : Obligations.RequiredSizeExceedsActualSize := by
  intro i s t hi hlen hpos h herr
  obtain ⟨x, u, hx, rfl⟩ := exec_sizesExceed hi ⟨rfl, hlen, hpos⟩ h (by rw [herr]; decide)
  exact hx.raise herr

/-! What a command that raised leaves as it was (60_exceptions.md R278, R279). -/

/-- From `s` to `t` an exception in `i` has changed the status, with the sizes for an EncodeError, and RES; and the validity of
the image where it is BUILD's PIXEL_RANGE. -/
def OnlyStatusChanged (i : Instr) (s t : State) : Prop :=
  t = { s with err := t.err, errSub := t.errSub,
               errReq := if t.err = 8 then t.errReq else s.errReq,
               errAct := if t.err = 8 then t.errAct else s.errAct,
               res := t.res, freeCtr := t.freeCtr, seq := .idle, tmp := StepVars.empty,
               imgValid := if i = .build ∧ t.errSub = 7 then false else s.imgValid }

theorem RaisedTooSmall.onlyStatusChanged {required actual : Nat} (h : RaisedTooSmall required actual s t) :
    OnlyStatusChanged i s t := by
  obtain ⟨ht, -⟩ := h
  have herr : t.err = 8 := congrArg State.err ht
  have hsub : t.errSub = 0 := congrArg State.errSub ht
  simpa [OnlyStatusChanged, herr, hsub] using ht

theorem RaisedOnly.onlyStatusChanged {e sub : BitVec 4} (h : RaisedOnly e sub s t) (he : e ≠ 8) (hpix : sub ≠ 7) :
    OnlyStatusChanged i s t := by
  have herr : t.err = e := congrArg State.err h
  have hsub : t.errSub = sub := congrArg State.errSub h
  rw [OnlyStatusChanged, herr, hsub, if_neg he, if_neg he, if_neg fun h7 => hpix h7.2]
  exact h

theorem RaisedOnly.onlyStatusChanged_of_pixelRange (h : RaisedOnly 15 7 s.withoutImage t) :
    OnlyStatusChanged .build s t := by
  have herr : t.err = 15 := congrArg State.err h
  have hsub : t.errSub = 7 := congrArg State.errSub h
  rw [OnlyStatusChanged, herr, hsub, if_pos ⟨rfl, rfl⟩]
  exact h

theorem Exc.errSubCode_ne_seven (hx : x ≠ .assert .pixelRange) : x.errSubCode ≠ 7 := by
  cases x with
  | decode c => simp [Exc.errSubCode]
  | bufferTooSmall q c => simp [Exc.errSubCode]
  | assert c => cases c <;> simp_all [Exc.errSubCode, AssertCause.subCode]

/-- An exception other than PIXEL_RANGE, taken before the command has written anything. -/
theorem onlyStatusChanged_raise (hx : x ≠ .assert .pixelRange) : OnlyStatusChanged i s (s.begin.raise x) := by
  by_cases hsizes : ∃ required actual, x = .bufferTooSmall required actual
  · obtain ⟨required, actual, rfl⟩ := hsizes
    exact (raisedTooSmall_raise required actual s).onlyStatusChanged
  · have honly : RaisedOnly x.errCode x.errSubCode s.begin (s.begin.raise x) :=
      raisedOnly_raise fun required actual h => hsizes ⟨required, actual, h⟩
    exact RaisedOnly.onlyStatusChanged (s := s) honly (mt Exc.errCode_eq_eight_iff.1 hsizes) (Exc.errSubCode_ne_seven hx)

/-- A part of the run of `i`, which started in `s`: done with `P`, or raised with only the status changed. -/
def Run.LeavesState (i : Instr) (s : State) (P : State → Prop) (r : Run α) : Prop :=
  r.Ends P fun x u => OnlyStatusChanged i s (u.raise x)

/-- The fault of an operand is never PIXEL_RANGE. -/
theorem OperandKind.cause_ne_pixelRange (k : OperandKind) : k.cause ≠ .pixelRange := by cases k <;> decide

/-- A command that starts with the check of its operands. -/
theorem checkOperands_leavesState {ops : List (OperandKind × Word)} {f : Unit → State → Run Unit}
    (hf : (f () s.begin).LeavesState i s P) : ((checkOperands ops s.begin).andThen f).LeavesState i s P := by
  cases hfault : firstFault ops with
  | none => rwa [checkOperands, hfault]
  | some c =>
    obtain ⟨o, -, rfl⟩ := exists_of_firstFault_eq_some hfault
    rw [checkOperands, hfault]
    exact onlyStatusChanged_raise (by simp [OperandKind.cause_ne_pixelRange])

/-- A command that starts with the check that there is an image. -/
theorem needImage_leavesState {f : Unit → State → Run Unit} (hf : (f () s.begin).LeavesState i s P) :
    ((needImage s.begin).andThen f).LeavesState i s P := by
  rw [needImage]
  split
  · exact hf
  · exact onlyStatusChanged_raise (by simp)

theorem readBits_leavesState (n : Nat) : (readBits n s.begin).LeavesState i s (·.err = 0) := by
  rw [readBits]
  split
  · exact onlyStatusChanged_raise (by simp)
  · exact rfl

theorem writeBits_leavesState (v n : Nat) : (writeBits v n s.begin).LeavesState i s (·.err = 0) := by
  obtain ⟨-, hw⟩ | ⟨-, -, -, hw⟩ | ⟨-, -, -, -, hw⟩ | ⟨-, -, -, -, hw⟩ := writeBits_cases v n s.begin <;> rw [hw]
  · exact onlyStatusChanged_raise (by simp)
  · exact onlyStatusChanged_raise (by simp)
  · exact onlyStatusChanged_raise (by simp)
  · exact rfl

/-- BUILD's pixel check raises with IMG_VALID cleared, as PIXEL_RANGE may. -/
theorem checkPixels_leavesState (cc n : Nat) : (checkPixels cc n s.begin.withoutImage).LeavesState .build s (·.err = 0) := by
  rw [checkPixels]
  split
  · exact rfl
  · exact (raisedOnly_raise (x := .assert .pixelRange) (by simp) :
      RaisedOnly 15 7 s.withoutImage _).onlyStatusChanged_of_pixelRange

/-- Every command but DECODE and ENCODE raises, if at all, before it has written anything but the validity of BUILD's image. -/
theorem exec_leavesState (hi : i.isCommand = true) (hmulti : i ∉ [Instr.decode, .encode]) :
    ∃ r : Run Unit, exec i s = r.finish ∧ r.LeavesState i s (·.err = 0) := by
  cases i with
  | newcursor => exact ⟨.done () { s.begin with pos := 0 }, rfl, rfl⟩
  | readbits => exact ⟨_, rfl, checkOperands_leavesState ((readBits_leavesState _).andThen fun _ _ h => h)⟩
  | readbyte => exact ⟨_, exec_readbyte s, (readBits_leavesState 8).andThen fun _ _ h => h⟩
  | writebits => exact ⟨_, rfl, writeBits_leavesState _ _⟩
  | mfDecode | mfEncode | colorcountfor | channelcountfor | quant1 | quant2 | quant8 | defcolor | loaddefpal =>
    exact ⟨_, rfl, checkOperands_leavesState rfl⟩
  | color | bytecount => exact ⟨_, rfl, needImage_leavesState rfl⟩
  | colorat =>
    refine ⟨_, rfl, needImage_leavesState ?_⟩
    split
    · exact onlyStatusChanged_raise (by simp)
    · exact rfl
  | build => exact ⟨_, rfl, checkOperands_leavesState ((checkPixels_leavesState _ _).andThen fun _ _ h => h)⟩
  | decode | encode => exact absurd (by decide) hmulti
  | _ => simp [Instr.isCommand, Instr.encoding] at hi

/-- ENCODE raises in its checks; once they have passed, the invariant lets no write of it raise. -/
theorem exec_encode_cases (hinv : Inv s) :
    ∃ t, exec .encode s = .next t ∧ (t.err = 0 ∨ OnlyStatusChanged .encode s t) := by
  obtain ⟨hflag, himage, htarget, hcapacity⟩ := encodeChecksBeforeItWrites s
  by_cases haccepts : EncodeAccepts s
  · obtain ⟨m, hexec, -⟩ := exec_encode_of_accepts hinv haccepts
    exact ⟨_, hexec, .inl rfl⟩
  rcases Nat.lt_or_ge 1 s.arg[0].toNat with h1 | h1
  · obtain ⟨t, ht, honly⟩ := hflag h1
    exact ⟨t, ht, .inr (honly.onlyStatusChanged (by decide) (by decide))⟩
  cases himg : s.imgValid with
  | false =>
    obtain ⟨t, ht, honly⟩ := himage h1 himg
    exact ⟨t, ht, .inr (honly.onlyStatusChanged (by decide) (by decide))⟩
  | true =>
    rcases h1.eq_or_lt with hone | hzero
    · obtain ⟨t, ht, hsmall⟩ := htarget hone himg (Nat.lt_of_not_le fun h => haccepts ⟨himg, .inl ⟨hone, h⟩⟩)
      exact ⟨t, ht, .inr hsmall.onlyStatusChanged⟩
    · have hzero : s.arg[0].toNat = 0 := by omega
      obtain ⟨t, ht, hsmall⟩ := hcapacity hzero himg (Nat.lt_of_not_le fun h => haccepts ⟨himg, .inr ⟨hzero, h⟩⟩)
      exact ⟨t, ht, .inr hsmall.onlyStatusChanged⟩

/-- Settles O17: ENCODE by its checks, every other command by its run. -/
theorem raisedCommandsChangeNothingElse : Obligations.RaisedCommandsChangeNothingElse := by
  intro i s t hi hdecode hinv h herr
  by_cases hencode : i = .encode
  · subst hencode
    obtain ⟨u, hu, hends⟩ := exec_encode_cases (hinv rfl)
    obtain rfl : u = t := Host.Outcome.next.inj (hu.symm.trans h)
    exact hends.resolve_left herr
  · obtain ⟨r, hr, hleaves⟩ := exec_leavesState (s := s) hi (by simp [hdecode, hencode])
    obtain ⟨x, u, honly, rfl⟩ := hleaves.exists_raise (fun _ hu => hu) (hr ▸ h) herr
    exact honly

end Sys2Proof.Machine
end

section
/-! PROOFS. The state after reset: the values it holds and what each command does in it (70_reset_and_hazards.md). -/

namespace Sys2Proof.Machine

variable {s : State}

/-! The values (R300) and the wait for the host (R301). -/

theorem isDefaultColor_defaultEntry_code {d : PixelDepth} {i : Nat} (h : i < colorCountFor d) :
    IsDefaultColor d.code i (defaultEntry d i) := by
  have hentry : IsDefaultColor d.code i (defaultEntry (depthNamed d.code) i) :=
    isDefaultColor_defaultEntry (by rwa [depthNamed_of_code])
  rwa [depthNamed_of_code] at hentry

/-- Settles O1: the registers hold their values by definition, and entry `i` of a default palette is `defaultEntry _ i`. -/
theorem resetHoldsTheSpecValues : Obligations.ResetHoldsTheSpecValues :=
  ⟨rfl, rfl, rfl, rfl, rfl, rfl, rfl, defaultPalette_length,
    fun _ _ h => ⟨_, defaultPalette_getElem?_of_lt h, isDefaultColor_defaultEntry_code h⟩⟩

/-- Settles O2: reset is a state with nothing to come. -/
theorem idleBlockWaits : Obligations.IdleBlockWaits := ⟨fun _ => step_idle, step_idle rfl⟩

/-! The invariant. -/

theorem Memory.wf_nil {α : Type} (d : α) : Memory.wf d [] := ⟨.nil, List.forall_mem_nil _⟩

theorem Memory.below_nil {α : Type} (n : Nat) : Memory.below n ([] : List (Nat × α)) := List.forall_mem_nil _

/-- Settles O10: the memories are empty, there is no image, and ERR is 0. -/
theorem invariantHoldsAtReset : Obligations.InvariantHoldsAtReset where
  bufWf := Memory.wf_nil _
  palWf := Memory.wf_nil _
  pixWf := Memory.wf_nil _
  bufBelow := Memory.below_nil _
  palBelow := Memory.below_nil _
  pixBelow := Memory.below_nil _
  lenMax := Nat.zero_le _
  image := fun h => absurd h Bool.false_ne_true
  errLegal := .inl ⟨.inl rfl, rfl⟩
  idle := rfl
  noVars := rfl

/-! The first command (R303). -/

/-- The codes a raise leaves, without the frame. -/
theorem codes_of_raisedOnly {i : Instr} {e sub : BitVec 4} (h : ∃ t, exec i s = .next t ∧ RaisedOnly e sub s t) :
    ∃ t, exec i s = .next t ∧ t.err = e ∧ t.errSub = sub := by
  obtain ⟨t, ht, hraised⟩ := h
  exact ⟨t, ht, congrArg State.err hraised, congrArg State.errSub hraised⟩

theorem exec_readbits_of_emptyBuf (hlen : s.bufLen = 0) (h1 : 1 ≤ s.arg[0].toNat) (h32 : s.arg[0].toNat ≤ 32) :
    ∃ t, exec .readbits s = .next t ∧ t.err = 3 := by
  obtain ⟨-, -, hshort⟩ := readbitsReturnsTheField s
  obtain ⟨t, ht, herr, -⟩ := codes_of_raisedOnly (hshort h1 h32 (by omega))
  exact ⟨t, ht, herr⟩

theorem exec_readbyte_of_emptyBuf (hlen : s.bufLen = 0) : ∃ t, exec .readbyte s = .next t ∧ t.err = 3 := by
  obtain ⟨-, hshort, -⟩ := readbyteIsReadbitsOfEight s
  obtain ⟨t, ht, herr, -⟩ := codes_of_raisedOnly (hshort (by omega))
  exact ⟨t, ht, herr⟩

theorem exec_decode_of_emptyBuf (hlen : s.bufLen = 0) : ∃ t, exec .decode s = .next t ∧ t.err = 3 := by
  obtain ⟨hshort, -⟩ := decodeRejectsTheSignature s
  obtain ⟨t, ht, hraised⟩ := hshort (by omega)
  exact ⟨t, ht, hraised.err_eq⟩

/-- The size it reports is that of the field alone, since POS is 0. -/
theorem exec_writebits_of_emptyBuf (hlen : s.bufLen = 0) (hpos : s.pos = 0) (h1 : 1 ≤ s.arg[1].toNat)
    (h32 : s.arg[1].toNat ≤ 32) (hv : s.arg[0].toNat < 2 ^ s.arg[1].toNat) :
    ∃ t, exec .writebits s = .next t ∧ t.err = 8 ∧ t.errReq.toNat = ceil8 s.arg[1].toNat ∧ t.errAct = 0 := by
  obtain ⟨-, -, -, hshort⟩ := writebitsWritesTheField s
  obtain ⟨t, ht, hraised⟩ := hshort h1 h32 hv (by omega)
  rw [hlen, hpos, Nat.zero_add] at hraised
  have hsize : ceil8 s.arg[1].toNat < 2 ^ 32 := by rw [ceil8]; omega
  obtain ⟨heq, hreq, hact⟩ := hraised
  exact ⟨t, ht, congrArg State.err heq, hreq hsize, BitVec.eq_of_toNat_eq (hact (by decide))⟩

/-- The commands that need an image and check nothing before it. -/
theorem exec_imageReader_of_noImage {i : Instr} (hi : i ∈ [Instr.color, .colorat, .bytecount])
    (himg : s.imgValid = false) : ∃ t, exec i s = .next t ∧ RaisedOnly 15 6 s t := by
  simp only [List.mem_cons, List.not_mem_nil, or_false] at hi
  obtain rfl | rfl | rfl := hi
  · obtain ⟨-, hnoImage⟩ := colorLooksUpTheCurrentPalette s
    exact hnoImage himg
  · obtain ⟨-, -, hnoImage⟩ := coloratResolvesThePixel s
    exact hnoImage himg
  · obtain ⟨-, hnoImage⟩ := bytecountIsTheSizeFormula s
    exact hnoImage himg

theorem exec_encode_of_noImage (hflag : s.arg[0].toNat ≤ 1) (himg : s.imgValid = false) :
    ∃ t, exec .encode s = .next t ∧ RaisedOnly 15 6 s t := by
  obtain ⟨-, hnoImage, -⟩ := encodeChecksBeforeItWrites s
  exact hnoImage hflag himg

/-- BUILD of an image of no pixels has none to check. -/
theorem exec_build_of_noPixels (hops : BuildOperands s) (h0 : s.arg[4].toNat * s.arg[5].toNat = 0) :
    ∃ t, exec .build s = .next t ∧ t.err = 0 ∧ t.imgValid = true := by
  refine ⟨s.begin.withImage, ?_, rfl, rfl⟩
  rw [exec_build_of_legal hops, buildImage_of_below (s := s.begin) fun k hk => absurd hk (h0 ▸ Nat.not_lt_zero k),
    Run.finish_done]

/-- The state after reset with operands in ARG. -/
def State.resetWith (a : Vector Word 6) : State := { State.reset with arg := a }

/-- Settles O18: whatever ARG holds, the buffer is empty, POS is 0 and there is no image. -/
theorem firstCommandAfterReset : Obligations.FirstCommandAfterReset := by
  intro a
  have hlen : (State.resetWith a).bufLen = 0 := rfl
  have hpos : (State.resetWith a).pos = 0 := rfl
  have himg : (State.resetWith a).imgValid = false := rfl
  exact ⟨⟨_, newcursorStartsAtBitZero _, rfl, rfl⟩,
    exec_readbits_of_emptyBuf hlen,
    exec_readbyte_of_emptyBuf hlen,
    exec_writebits_of_emptyBuf hlen hpos,
    fun _ hi => codes_of_raisedOnly (exec_imageReader_of_noImage hi himg),
    fun hflag => codes_of_raisedOnly (exec_encode_of_noImage hflag himg),
    exec_decode_of_emptyBuf hlen,
    exec_build_of_noPixels (s := State.resetWith a)⟩

end Sys2Proof.Machine
end
